-- ==== Sys2Proof/Word.lean ====
section
/-! DEFINITION. The bit-level types of the block: the bytes of the serial link, the event word, the phase code and the
bank selector. Everything else the spec gives as integers, flags and sequences stays an integer, a flag or a list. -/

namespace Sys2Proof

/-- A byte of the link, a speed code or a brightness: 0 to 255, eight bits (R12). -/
abbrev Byte := BitVec 8

/-- Format EV: the event word `kind[1:0] ∥ data[7:0]` (R81). -/
abbrev EventWord := BitVec 10

/-- Format INT: the three-bit phase code (R26, R83). -/
abbrev PhaseCode := BitVec 3

/-- The bank port's selector `w ∥ sel[1:0]` (R86). -/
abbrev BankCode := BitVec 3

end Sys2Proof
end

