-- ==== Sys2Proof/Config.lean ====
section
/-! DEFINITION. The parameters of the block (R6 to R9), as one record of plain data. They are build-time constants: no
step changes them. `Config.Valid` is what a valid configuration must meet (R233), `Config.NoWrap` the condition under
which a `POS_W`-bit position register never wraps (R158). The default values stand in `Machine/Defaults.lean`. -/

namespace Sys2Proof

/-- The implementation parameters of R9 (`90_conflicts.md` and `92_eei_decisions.md` D2 to D9 say which are OPEN). -/
structure Config where
  /-- `L`, the number of LED channels (R6, OPEN). -/
  L : Nat
  /-- `S`, the number of servo channels (R6, OPEN). -/
  S : Nat
  /-- `MIN_POS` (R7). -/
  minPos : Int
  /-- `MAX_POS` (R7). -/
  maxPos : Int
  /-- `SPEED_TABLE`, the 256 natural numbers indexed by a byte (R25, R111, R112). -/
  speedTable : Vector Nat 256
  /-- `POS_W`, the width of the position register (R9, D5). -/
  posW : Nat
  /-- `BRIGHT_RESET`, one byte per LED channel (R9, D6). -/
  brightReset : List Byte
  /-- `RX_CAP`, the receive buffer's capacity; `none` is the unbounded buffer (R9, R69, OPEN). -/
  rxCap : Option Nat
  /-- `BANNER`, the bytes put on `tx` by RESET (R9, R232, OPEN). -/
  banner : List Byte
  /-- `TICK_IN_RESYNC` (R9, D9). -/
  tickInResync : Bool
  /-- `DELIM` (R8, R9). -/
  delim : Byte
deriving DecidableEq, Repr

namespace Config

/-- The frame length `N = L + S` (R6). -/
def frameLen (c : Config) : Nat := c.L + c.S

/-- `DELTA_MAX`, the greatest entry of the table (R113 (d), R116). -/
def deltaMax (c : Config) : Nat := c.speedTable.toList.foldl max 0

/-- `TICK_DELAY` in unnamed time units (R8): timing only, no rule depends on it (R250). -/
def tickDelay : Nat := 20

/-- `BAUD` (R8): timing only, no rule depends on it (R250). -/
def baud : Nat := 9600

/-- A valid configuration: `L + S ≥ 1`, `MIN_POS < MAX_POS`, `RX_CAP ≥ L + S` and one `BRIGHT_RESET` byte per LED
(R6, R7, R69, R233 (a)); the table's 256 entries are in its type. -/
abbrev Valid (c : Config) : Prop :=
  1 ≤ c.frameLen ∧ c.minPos < c.maxPos ∧ (∀ cap ∈ c.rxCap.toList, c.frameLen ≤ cap) ∧ c.brightReset.length = c.L

/-- The no-wrap condition of R158: the moved value fits a `POS_W`-bit two's-complement register. -/
abbrev NoWrap (c : Config) : Prop :=
  1 ≤ c.posW ∧ c.maxPos + c.deltaMax < 2 ^ (c.posW - 1) ∧ -(2 ^ (c.posW - 1)) ≤ c.minPos - c.deltaMax

/-- `v` is a value of a `POS_W`-bit two's-complement register (R20). -/
abbrev FitsPos (c : Config) (v : Int) : Prop :=
  -(2 ^ (c.posW - 1)) ≤ v ∧ v < 2 ^ (c.posW - 1)

end Config

end Sys2Proof
end

