-- ==== Sys2Proof/Machine/Defaults.lean ====
section
/-! DEFINITION. The default values of the parameters (R7, R8, R9, R112) and the configuration of the reset state. -/

namespace Sys2Proof.Config

/-- The six runs of the default table: how many consecutive keys hold which value (R112). -/
def speedTableRuns : List (Nat × Nat) :=
  [(24, 0), (15, 1), (25, 2), (41, 3), (68, 4), (83, 5)]

/-- The default `SPEED_TABLE`: `floor (ln (c * c / 200))`, clamped at 0 (R111), written as its runs (R112). -/
def defaultTable : Vector Nat 256 :=
  ⟨(speedTableRuns.flatMap fun r => List.replicate r.1 r.2).toArray, by
    simp only [List.size_toArray, List.length_flatMap, List.length_replicate]; decide⟩

/-- The bare block with the spec's defaults (R9) for given channel counts: bounds 80 and 180, the table of R112,
`POS_W = 16`, dark LEDs, an unbounded receive buffer, no banner, ticks in RESYNC, delimiter `0x0D`. -/
def bare (leds servos : Nat) : Config where
  L := leds
  S := servos
  minPos := 80
  maxPos := 180
  speedTable := defaultTable
  posW := 16
  brightReset := List.replicate leds 0
  rxCap := none
  banner := []
  tickInResync := true
  delim := 0x0D#8

/-- The configuration of the reset state: the bare block with `L = 3, S = 3`, the channel counts of the source's one
scenario. DESIGN CHOICE (notes/assumptions/2.md): R6 gives `L` and `S` no value. -/
def default : Config := bare 3 3

end Sys2Proof.Config
end

