-- ==== Sys2Proof/Syntax.lean ====
section
/-! DEFINITION. The 19 operations of `spec/opcode_table.json` (R84), one constructor each, and the encoded form in which
each is selected (R80: an event word, a phase code, a byte on the link with its place, or an internal port's call). -/

namespace Sys2Proof

/-- The selector `sel` of the channel bank's ports (R86, R120). -/
inductive BankSel where
  | position
  | direction
  | speedCode
  | brightness
deriving DecidableEq, Repr

/-- A value of one of the four arrays, with its element type (R120, R121). -/
inductive BankValue where
  | position (v : Int)
  | direction (v : Bool)
  | speedCode (v : Byte)
  | brightness (v : Byte)
deriving DecidableEq, Repr

/-- The array a value belongs to. -/
def BankValue.sel : BankValue → BankSel
  | .position _ => .position
  | .direction _ => .direction
  | .speedCode _ => .speedCode
  | .brightness _ => .brightness

/-- The operations of R84. A BANK.WR's selector is its value's array, so a value of the wrong element type is not
writable. The event word's ignored `data` bits (R90) are no operand. -/
inductive Instr where
  /-- IDLE (R176). -/
  | idle
  /-- RXPUSH of byte `b` (R170). -/
  | rxpush (b : Byte)
  /-- TICK (R150). -/
  | tick
  /-- RESET (R230). -/
  | reset
  /-- FIRE (R171). -/
  | fire
  /-- CONSUME (R172). -/
  | consume
  /-- UPDATE (R173). -/
  | update
  /-- ECHO (R174). -/
  | echo
  /-- RESYNC (R175). -/
  | resync
  /-- FRAME.LED: the byte `b` at frame offset `k` (R141). -/
  | frameLed (k : Nat) (b : Byte)
  /-- FRAME.SPD: the byte `b` at frame offset `k` (R142). -/
  | frameSpd (k : Nat) (b : Byte)
  /-- DELIM: the delimiter byte popped in RESYNC (R175). -/
  | delim
  /-- SKIP: the byte `b`, not the delimiter, popped in RESYNC (R175). -/
  | skip (b : Byte)
  /-- LOOKUP of the table entry at `c` (R110). -/
  | lookup (c : Byte)
  /-- SERVO_STEP of servo channel `i` (R151). -/
  | servoStep (i : Nat)
  /-- LED_EMIT of LED channel `j` (R153). -/
  | ledEmit (j : Nat)
  /-- DECODE of the frame `raw` (R140). -/
  | decodeFrame (raw : List Byte)
  /-- BANK.RD of register `n` of the array `sel` (R120). -/
  | bankRd (sel : BankSel) (n : Nat)
  /-- BANK.WR of `v` into register `n` of the array of `v` (R121). -/
  | bankWr (n : Nat) (v : BankValue)
deriving DecidableEq, Repr

/-- The four formats of R80. -/
inductive Format where
  | ev
  | int
  | wire
  | sub
deriving DecidableEq, Repr

/-- An encoded operation: the bits that select it, in its format, with the operands that stand beside the bits (the
byte's place on the link, a channel index, the frame, a written value). Two operations of different formats may have
the same bits (R84: SERVO_STEP and LED_EMIT stand under TICK's event word, DECODE under UPDATE's phase code). -/
inductive OpWord where
  /-- EV: an event word (R81). -/
  | ev (w : EventWord)
  /-- INT: the phase register's code (R83). -/
  | int (code : PhaseCode)
  /-- WIRE: the byte at frame offset `k` (R82). -/
  | wireFrame (k : Nat) (b : Byte)
  /-- WIRE: a byte popped in RESYNC (R87). -/
  | wireResync (b : Byte)
  /-- SUB: LOOKUP's table address (R86). -/
  | subLookup (c : Byte)
  /-- SUB: SERVO_STEP of index `i`, under the event word of the TICK that invokes it. -/
  | subServo (w : EventWord) (i : Nat)
  /-- SUB: LED_EMIT of index `j`, under the event word of the TICK that invokes it. -/
  | subLed (w : EventWord) (j : Nat)
  /-- SUB: DECODE of `raw`, under the phase code of the UPDATE that invokes it. -/
  | subDecode (code : PhaseCode) (raw : List Byte)
  /-- SUB: the bank port's selector, its channel index and, on a write, the value (R86). -/
  | subBank (code : BankCode) (n : Nat) (v : Option BankValue)
deriving DecidableEq, Repr

/-- The format of an encoded operation (R80). -/
def OpWord.format : OpWord → Format
  | .ev _ => .ev
  | .int _ => .int
  | .wireFrame _ _ => .wire
  | .wireResync _ => .wire
  | .subLookup _ => .sub
  | .subServo _ _ => .sub
  | .subLed _ _ => .sub
  | .subDecode _ _ => .sub
  | .subBank _ _ _ => .sub

/-- The format of an operation's row in `spec/opcode_table.json` (R84). -/
def Instr.format : Instr → Format
  | .idle => .ev
  | .rxpush _ => .ev
  | .tick => .ev
  | .reset => .ev
  | .fire => .int
  | .consume => .int
  | .update => .int
  | .echo => .int
  | .resync => .int
  | .frameLed _ _ => .wire
  | .frameSpd _ _ => .wire
  | .delim => .wire
  | .skip _ => .wire
  | .lookup _ => .sub
  | .servoStep _ => .sub
  | .ledEmit _ => .sub
  | .decodeFrame _ => .sub
  | .bankRd _ _ => .sub
  | .bankWr _ _ => .sub

end Sys2Proof
end

