-- ==== Sys2Proof/WellFormed.lean ====
section
/-! DEFINITION. Which operations a given configuration can issue: the index contract of R51 (`i < S`, `j < L`,
`k < L + S`), the frame's length (R140) and the byte class of SKIP (R87). -/

namespace Sys2Proof

/-- The number of registers of an array (R50). -/
def BankSel.size (c : Config) : BankSel → Nat
  | .position => c.S
  | .direction => c.S
  | .speedCode => c.S
  | .brightness => c.L

/-- The operation's operands are in range for the configuration (R51, R82, R86, R87). -/
def Instr.wellFormed (c : Config) : Instr → Bool
  | .idle => true
  | .rxpush _ => true
  | .tick => true
  | .reset => true
  | .fire => true
  | .consume => true
  | .update => true
  | .echo => true
  | .resync => true
  | .frameLed k _ => decide (k < c.L)
  | .frameSpd k _ => decide (c.L ≤ k) && decide (k < c.frameLen)
  | .delim => true
  | .skip b => decide (b ≠ c.delim)
  | .lookup _ => true
  | .servoStep i => decide (i < c.S)
  | .ledEmit j => decide (j < c.L)
  | .decodeFrame raw => decide (raw.length = c.frameLen)
  | .bankRd sel n => decide (n < sel.size c)
  | .bankWr n v => decide (n < v.sel.size c)

end Sys2Proof
end

