-- ==== Sys2Proof/Decode.lean ====
section
/-! DEFINITION. The decoder, total on every encoded operation and rejecting by name, and the encoder, written from the
same tables of the spec (R81, R82, R83, R86, R26). The host's view of a table row's bare bits stands at the end. -/

namespace Sys2Proof

/-- Why the decoder rejects an encoded operation. -/
inductive DecodeError where
  /-- A phase code `0b101`, `0b110` or `0b111` (R92). -/
  | reservedPhase
  /-- A frame offset `k ≥ L + S` (R51). -/
  | offsetOutOfRange
  /-- A channel index outside its array (R51). -/
  | indexOutOfRange
  /-- A DECODE operand that is not exactly `L + S` bytes (R140). -/
  | frameSize
  /-- SERVO_STEP or LED_EMIT outside a TICK's event word, DECODE outside UPDATE's phase code (R84). -/
  | wrongInvoker
  /-- A bank write without a value or with a value of another array, a bank read with a value (R120, R121). -/
  | bankOperand
deriving DecidableEq, Repr

/-- `kind = ev[9:8]` (R81). -/
def eventKind (w : EventWord) : BitVec 2 := w.extractLsb' 8 2

/-- `data = ev[7:0]` (R81). -/
def eventData (w : EventWord) : Byte := w.extractLsb' 0 8

/-- `ev = kind ∥ data` (R81). -/
def eventWord (kind : BitVec 2) (data : Byte) : EventWord := kind ++ data

/-- Bit 2 of the bank port's selector: `w = 1` is a write (R86). -/
def bankIsWrite (code : BankCode) : Bool := code.extractLsb' 2 1 == 1#1

/-- Bits 1:0 of the bank port's selector (R86). -/
def bankSelOf (code : BankCode) : BankSel :=
  if code.extractLsb' 0 2 = 0b00#2 then .position
  else if code.extractLsb' 0 2 = 0b01#2 then .direction
  else if code.extractLsb' 0 2 = 0b10#2 then .speedCode
  else .brightness

/-- The two-bit code of an array (R86). -/
def BankSel.bits : BankSel → BitVec 2
  | .position => 0b00#2
  | .direction => 0b01#2
  | .speedCode => 0b10#2
  | .brightness => 0b11#2

/-- `w ∥ sel` (R86). -/
def bankCode (write : Bool) (sel : BankSel) : BankCode := BitVec.ofBool write ++ sel.bits

/-- Every event word is one of the four events; `data` is RXPUSH's byte and is ignored otherwise (R81, R90). -/
def decodeEvent (w : EventWord) : Instr :=
  if eventKind w = 0b00#2 then .idle
  else if eventKind w = 0b01#2 then .rxpush (eventData w)
  else if eventKind w = 0b10#2 then .tick
  else .reset

/-- The micro-step the phase code selects (R83); the codes `0b101` to `0b111` are reserved (R92). -/
def decodePhase (code : PhaseCode) : Except DecodeError Instr :=
  if code = 0b000#3 then .ok .fire
  else if code = 0b001#3 then .ok .consume
  else if code = 0b010#3 then .ok .update
  else if code = 0b011#3 then .ok .echo
  else if code = 0b100#3 then .ok .resync
  else .error .reservedPhase

/-- A byte of a frame goes to its channel by its offset alone (R82). -/
def decodeFrameByte (c : Config) (k : Nat) (b : Byte) : Except DecodeError Instr :=
  if k < c.L then .ok (.frameLed k b)
  else if k < c.frameLen then .ok (.frameSpd k b)
  else .error .offsetOutOfRange

/-- A byte popped in RESYNC is DELIM or SKIP by its value (R87). -/
def decodeResyncByte (c : Config) (b : Byte) : Instr :=
  if b = c.delim then .delim else .skip b

/-- The bank port (R86, R120, R121). -/
def decodeBank (c : Config) (code : BankCode) (n : Nat) (v : Option BankValue) : Except DecodeError Instr :=
  if n < (bankSelOf code).size c then
    match bankIsWrite code, v with
    | false, none => .ok (.bankRd (bankSelOf code) n)
    | true, some x => if x.sel = bankSelOf code then .ok (.bankWr n x) else .error .bankOperand
    | false, some _ => .error .bankOperand
    | true, none => .error .bankOperand
  else .error .indexOutOfRange

/-- The decoder (R84). -/
def decode (c : Config) : OpWord → Except DecodeError Instr
  | .ev w => .ok (decodeEvent w)
  | .int code => decodePhase code
  | .wireFrame k b => decodeFrameByte c k b
  | .wireResync b => .ok (decodeResyncByte c b)
  | .subLookup code => .ok (.lookup code)
  | .subServo w i =>
    if eventKind w = 0b10#2 then (if i < c.S then .ok (.servoStep i) else .error .indexOutOfRange)
    else .error .wrongInvoker
  | .subLed w j =>
    if eventKind w = 0b10#2 then (if j < c.L then .ok (.ledEmit j) else .error .indexOutOfRange)
    else .error .wrongInvoker
  | .subDecode code raw =>
    if code = 0b010#3 then (if raw.length = c.frameLen then .ok (.decodeFrame raw) else .error .frameSize)
    else .error .wrongInvoker
  | .subBank code n v => decodeBank c code n v

/-- The encoder (R81, R82, R83, R86): the canonical word of an operation, with ignored bits zero. -/
def encode (c : Config) : Instr → OpWord
  | .idle => .ev (eventWord 0b00#2 0#8)
  | .rxpush b => .ev (eventWord 0b01#2 b)
  | .tick => .ev (eventWord 0b10#2 0#8)
  | .reset => .ev (eventWord 0b11#2 0#8)
  | .fire => .int 0b000#3
  | .consume => .int 0b001#3
  | .update => .int 0b010#3
  | .echo => .int 0b011#3
  | .resync => .int 0b100#3
  | .frameLed k b => .wireFrame k b
  | .frameSpd k b => .wireFrame k b
  | .delim => .wireResync c.delim
  | .skip b => .wireResync b
  | .lookup code => .subLookup code
  | .servoStep i => .subServo (eventWord 0b10#2 0#8) i
  | .ledEmit j => .subLed (eventWord 0b10#2 0#8) j
  | .decodeFrame raw => .subDecode 0b010#3 raw
  | .bankRd sel n => .subBank (bankCode false sel) n none
  | .bankWr n v => .subBank (bankCode true v.sel) n (some v)

/-- The encoded operation that a table row's bare bits stand for. The table does not number the formats, so bits of
different formats may be equal: a word of more than one byte is an event word; a byte whose value is one of the five
phase codes is that code; any other byte is a byte popped in RESYNC. DESIGN CHOICE (notes/assumptions/7.md). -/
def tableOpWord (nbits w : Nat) : Option OpWord :=
  if 8 < nbits then (if w < 1024 then some (.ev (BitVec.ofNat 10 w)) else none)
  else if w < 5 then some (.int (BitVec.ofNat 3 w))
  else if w < 256 then some (.wireResync (BitVec.ofNat 8 w))
  else none

/-- What the decoder reads from a table row's bits, under the reset state's configuration. -/
def decodeTableWord (nbits w : Nat) : Option Instr :=
  match tableOpWord nbits w with
  | none => none
  | some op =>
    match decode Config.default op with
    | .ok i => some i
    | .error _ => none

end Sys2Proof
end

