-- ==== Sys2Proof/Machine/State.lean ====
section
/-! DEFINITION. The state of the block (R20 to R31), as plain data, with its reset value (R37); the reasons a step can
stop. Two fields are the model's own, not the spec's: `result` (what an internal port hands back to its invoker) and
`schedule` (which agent moves next: the spec leaves the schedule to the environment, R36, R64). The configuration stands
in the state because `exec` and `step` take nothing else; no step changes it. -/

namespace Sys2Proof.Machine

/-- The link protocol's phase (R26). Five constructors, so that a reserved code cannot be written (R92). -/
inductive Phase where
  | waitFrame
  | consumeFrame
  | updateState
  | echo
  | resync
deriving DecidableEq, Repr

/-- A physical output write (R30): `(servo, i, v)` or `(pwm, j, v)`. -/
inductive OutEvent where
  | servo (i : Nat) (v : Int)
  | pwm (j : Nat) (v : Byte)
deriving DecidableEq, Repr

/-- What an internal port returns: LOOKUP's step magnitude (R110) or the register BANK.RD read (R120). -/
inductive PortValue where
  | stepMagnitude (n : Nat)
  | register (v : BankValue)
deriving DecidableEq, Repr

/-- One turn of the schedule (R10, R64): an external event presented to the block, or a turn of the link protocol,
whose micro-step `phase` selects. -/
inductive Slot where
  | event (w : EventWord)
  | protocol
deriving DecidableEq, Repr

/-- The state of the block. -/
structure State where
  /-- The build-time parameters (R6 to R9), `SPEED_TABLE` (R25) among them. -/
  config : Config
  /-- `position[i]`, one per servo (R20). -/
  position : List Int
  /-- `direction[i]`, one per servo (R21): true is DEC, false is INC (R14). -/
  direction : List Bool
  /-- `speed_code[i]`, one per servo (R22). -/
  speedCode : List Byte
  /-- `brightness[j]`, one per LED (R23). -/
  brightness : List Byte
  /-- `phase` (R26). -/
  phase : Phase
  /-- `frame`, the transient frame buffer (R27). -/
  frame : Option (List Byte)
  /-- `rx`, oldest byte first (R28). -/
  rx : List Byte
  /-- `tx`, every byte written since reset, oldest first (R29). -/
  tx : List Byte
  /-- `out`, every output write since reset, oldest first (R30). -/
  out : List OutEvent
  /-- `servo_out[i]`, none before the first write (R31). -/
  servoOut : List (Option Int)
  /-- `led_out[j]`, none before the first write (R31). -/
  ledOut : List (Option Byte)
  /-- The model's own: what the last LOOKUP or BANK.RD run by itself returned (notes/assumptions/5.md). -/
  result : Option PortValue
  /-- The model's own: the turns to come, first one first (notes/assumptions/3.md). -/
  schedule : List Slot
deriving DecidableEq, Repr

/-- Why the machine stops. Every one is SAFE: the spec gives no step there, and no run of `step` from a state that meets
`Inv` reaches one. -/
inductive Fault where
  /-- Raised by TICK in a phase that holds it (R64, R65). Safe: `step` keeps the tick due and never runs it there. -/
  | tickHeld
  /-- Raised by FIRE, CONSUME, UPDATE, ECHO, RESYNC, DELIM and SKIP in a phase that selects another micro-step (R83). Safe. -/
  | phaseMismatch
  /-- Raised by CONSUME when fewer than `L + S` bytes are buffered: RxPop has nothing to pop (R13, R38 (c)). Safe. -/
  | rxUnderflow
  /-- Raised by UPDATE and ECHO when the frame buffer is empty (R38 (b)). Safe. -/
  | frameMissing
  /-- Raised by DELIM and SKIP when the oldest byte of `rx` is not of their class (R87). Safe. -/
  | byteClass
deriving DecidableEq, Repr

/-- Why an operation is given no meaning. Every one is SAFE. -/
inductive Refusal where
  /-- Raised by `exec` for an operation that has no meaning yet. Safe. -/
  | notModelled (mnemonic : String)
  /-- Raised by RXPUSH into a full receive buffer: the spec gives it no step (R69, R244). Safe. -/
  | receiveOverrun
  /-- Raised by FRAME.LED, FRAME.SPD, SERVO_STEP, LED_EMIT (and by TICK through them), BANK.RD and BANK.WR on an index outside its
  array: a contract violation, never a value (R51, R203). Safe. -/
  | indexOutOfRange
  /-- Raised by DECODE on an operand, and by UPDATE and ECHO on a frame buffer, that is not exactly `L + S` bytes (R140). Safe. -/
  | frameSize
  /-- Raised by `step` on an encoded operation the decoder rejects. Safe; no fetch yields one. -/
  | undecodable (e : DecodeError)
deriving DecidableEq, Repr

/-- The reset state of a block with the configuration `c` (R37), nothing scheduled. -/
def State.resetOf (c : Config) : State where
  config := c
  position := List.replicate c.S 0
  direction := List.replicate c.S false
  speedCode := List.replicate c.S 0
  brightness := c.brightReset
  phase := .waitFrame
  frame := none
  rx := []
  tx := c.banner
  out := []
  servoOut := List.replicate c.S none
  ledOut := List.replicate c.L none
  result := none
  schedule := []

/-- The machine right after reset (R37), in the configuration of notes/assumptions/2.md. -/
def State.reset : State := State.resetOf Config.default

end Sys2Proof.Machine
end

