-- ==== Sys2Proof/Machine/Ops.lean ====
section
/-! DEFINITION. The named operations over the state: sequencing, the primitives of R13, the channel registers' accessors
(R20 to R23), the output writes (R30, R31), the enabling conditions (R64) and the reset of every component (R230).
The block raises no exception (R200), so there is no exception entry and no return from one: what stands in their place
is FIRE (R209) and the end of RESYNC (R210), both writes of `phase` alone. -/

namespace Sys2Proof.Machine

/-- The outcome of a step of this machine. -/
abbrev StepResult := Host.Outcome State Fault Refusal

/-- Run `k` after `r`, unless `r` stopped. -/
def andThen (r : StepResult) (k : State → StepResult) : StepResult :=
  match r with
  | .next s => k s
  | .fault f => .fault f
  | .refused f => .refused f

/-- Run `body` for each index in turn; the whole is part of one atomic step (R58). -/
def forEach (body : Nat → State → StepResult) : List Nat → State → StepResult
  | [], s => .next s
  | n :: ns, s => andThen (body n s) (forEach body ns)

/-! ### The serial link (R13, R28, R29) -/

/-- `RxAvail()`. -/
abbrev rxAvail (s : State) : Nat := s.rx.length

/-- `RxPush(b)`: appends at the young end. -/
def rxPush (s : State) (b : Byte) : State := { s with rx := s.rx ++ [b] }

/-- `RxPop()`: the oldest byte and the state without it; none when no byte is buffered. -/
def rxPop (s : State) : Option (Byte × State) :=
  match s.rx with
  | [] => none
  | b :: rest => some (b, { s with rx := rest })

/-- `n` pops in a row, first popped first (R172); none when fewer than `n` bytes are buffered. -/
def rxPopMany (n : Nat) (s : State) : Option (List Byte × State) :=
  if n ≤ rxAvail s then some (s.rx.take n, { s with rx := s.rx.drop n }) else none

/-- `TxWrite(b)` for each byte in turn, first written first (R174); it never blocks (R29). -/
def txWriteAll (s : State) (bytes : List Byte) : State := { s with tx := s.tx ++ bytes }

/-- Whether the receive buffer takes one more byte (R69). -/
def rxHasRoom (s : State) : Bool :=
  match s.config.rxCap with
  | none => true
  | some cap => decide (rxAvail s < cap)

/-! ### The channel registers (R20 to R23, R50) -/

def readPosition (s : State) (i : Nat) : Option Int := s.position[i]?
def readDirection (s : State) (i : Nat) : Option Bool := s.direction[i]?
def readSpeedCode (s : State) (i : Nat) : Option Byte := s.speedCode[i]?
def readBrightness (s : State) (j : Nat) : Option Byte := s.brightness[j]?

def writePosition (s : State) (i : Nat) (v : Int) : State := { s with position := s.position.set i v }
def writeDirection (s : State) (i : Nat) (v : Bool) : State := { s with direction := s.direction.set i v }
def writeSpeedCode (s : State) (i : Nat) (v : Byte) : State := { s with speedCode := s.speedCode.set i v }
def writeBrightness (s : State) (j : Nat) (v : Byte) : State := { s with brightness := s.brightness.set j v }

/-! ### The outputs (R13, R30, R31) -/

/-- `ServoWrite(i, v)`: one event, and the latch. -/
def servoWrite (s : State) (i : Nat) (v : Int) : State :=
  { s with out := s.out ++ [.servo i v], servoOut := s.servoOut.set i (some v) }

/-- `PwmWrite(j, v)`: one event, and the latch. -/
def pwmWrite (s : State) (j : Nat) (v : Byte) : State :=
  { s with out := s.out ++ [.pwm j v], ledOut := s.ledOut.set j (some v) }

/-! ### The phase and the frame buffer (R26, R27) -/

/-- `phase <- p`. -/
def setPhase (s : State) (p : Phase) : State := { s with phase := p }

/-- The three-bit code of a phase (R26). -/
def Phase.code : Phase → PhaseCode
  | .waitFrame => 0b000#3
  | .consumeFrame => 0b001#3
  | .updateState => 0b010#3
  | .echo => 0b011#3
  | .resync => 0b100#3

/-- A micro-step runs in the phase that selects it and in no other (R83). -/
def inPhase (p : Phase) (s : State) (k : State → StepResult) : StepResult :=
  if s.phase = p then k s else .fault .phaseMismatch

/-- The frame that is in the buffer, which holds exactly `L + S` bytes (R27). -/
def withFrame (s : State) (k : List Byte → StepResult) : StepResult :=
  match s.frame with
  | none => .fault .frameMissing
  | some f => if f.length = s.config.frameLen then k f else .refused .frameSize

/-! ### Enabling (R64, R65) -/

/-- TICK is enabled in the stable phases, in RESYNC only with `TICK_IN_RESYNC` (R64, R65). -/
def tickEnabled (s : State) : Bool :=
  match s.phase with
  | .waitFrame => true
  | .resync => s.config.tickInResync
  | .consumeFrame => false
  | .updateState => false
  | .echo => false

/-- The link event is pending: a whole frame is buffered in WAIT_FRAME (R35 (2), R206 (1)). It is no stored bit; it is
level-sensitive, cannot be masked, and is what enables FIRE. -/
def linkPending (s : State) : Bool :=
  decide (s.phase = .waitFrame) && decide (s.config.frameLen ≤ rxAvail s)

/-! ### The table (R13, R110) -/

/-- `LOOKUP(c)`: total over the byte, without a side effect (R52). -/
def tableEntry (c : Config) (code : Byte) : Nat := c.speedTable[code.toNat]'code.isLt

/-! ### Reset (R230) -/

/-- Every component of the block at its reset value (R230); the configuration is no state of the block and the turns
still to come belong to the environment, so both stay. -/
def resetAll (s : State) : State :=
  { s with
    position := List.replicate s.config.S 0
    direction := List.replicate s.config.S false
    speedCode := List.replicate s.config.S 0
    brightness := s.config.brightReset
    phase := .waitFrame
    frame := none
    rx := []
    tx := s.config.banner
    out := []
    servoOut := List.replicate s.config.S none
    ledOut := List.replicate s.config.L none
    result := none }

end Sys2Proof.Machine
end

