-- ==== Sys2Proof/Machine/Operands.lean ====
section
/-! DEFINITION. The operand forms (R85, R86): a frame offset names a channel, a bank selector names an array. -/

namespace Sys2Proof.Machine

/-- The register a frame offset goes to (R82, R85): `brightness[k]`, or `speed_code[k - L]`. -/
inductive FrameDest where
  | led (j : Nat)
  | servo (i : Nat)
deriving DecidableEq, Repr

/-- `j = k` for `k < L`, `i = k - L` for `L ≤ k < L + S`, no channel beyond (R82, R85). -/
def frameDest (c : Config) (k : Nat) : Option FrameDest :=
  if k < c.L then some (.led k)
  else if k < c.frameLen then some (.servo (k - c.L))
  else none

/-- The register `sel[n]`, none outside the array (R120). -/
def bankRead (s : State) (sel : BankSel) (n : Nat) : Option BankValue :=
  match sel with
  | .position => (readPosition s n).map .position
  | .direction => (readDirection s n).map .direction
  | .speedCode => (readSpeedCode s n).map .speedCode
  | .brightness => (readBrightness s n).map .brightness

/-- `sel[n] <- v` with the array that `v` belongs to (R121). -/
def bankStore (s : State) (n : Nat) (v : BankValue) : State :=
  match v with
  | .position x => writePosition s n x
  | .direction x => writeDirection s n x
  | .speedCode x => writeSpeedCode s n x
  | .brightness x => writeBrightness s n x

/-- A bank write to a register that exists; outside the array there is no register to write (R51, R203). -/
def bankWrite (s : State) (n : Nat) (v : BankValue) : StepResult :=
  match bankRead s v.sel n with
  | none => .refused .indexOutOfRange
  | some _ => .next (bankStore s n v)

end Sys2Proof.Machine
end

