-- ==== Sys2Proof/Machine/Frame.lean ====
section
/-! DEFINITION. The FrameDecoder: DECODE (R140) and the data formats FRAME.LED (R141) and FRAME.SPD (R142). -/

namespace Sys2Proof.Machine

/-- DECODE's pure split (R140, R143): the first `L` bytes are the brightness values, the last `S` the speed codes. -/
def splitFrame (raw : List Byte) (s : State) : State :=
  { s with brightness := raw.take s.config.L, speedCode := raw.drop s.config.L }

/-- DECODE (R140), on a frame of exactly `L + S` bytes. -/
def execDecodeFrame (raw : List Byte) (s : State) : StepResult :=
  if raw.length = s.config.frameLen then .next (splitFrame raw s) else .refused .frameSize

/-- FRAME.LED (R141): `brightness[k] <- b` for `k < L`. -/
def execFrameLed (k : Nat) (b : Byte) (s : State) : StepResult :=
  match frameDest s.config k with
  | some (.led j) => bankWrite s j (.brightness b)
  | some (.servo _) => .refused .indexOutOfRange
  | none => .refused .indexOutOfRange

/-- FRAME.SPD (R142): `speed_code[k - L] <- b` for `L ≤ k < L + S`. -/
def execFrameSpd (k : Nat) (b : Byte) (s : State) : StepResult :=
  match frameDest s.config k with
  | some (.servo i) => bankWrite s i (.speedCode b)
  | some (.led _) => .refused .indexOutOfRange
  | none => .refused .indexOutOfRange

end Sys2Proof.Machine
end

