-- ==== Sys2Proof/Machine/Link.lean ====
section
/-! DEFINITION. The host's events on the link and at reset (IDLE R176, RXPUSH R170, RESET R230), and the LinkProtocol's
micro-steps (FIRE R171, CONSUME R172, UPDATE R173, ECHO R174, RESYNC R175 with its byte classes DELIM and SKIP). -/

namespace Sys2Proof.Machine

/-- IDLE (R176): no state changes. -/
def execIdle (s : State) : StepResult := .next s

/-- RXPUSH (R170); a push into a full buffer has no step (R69, R244). -/
def execRxpush (b : Byte) (s : State) : StepResult :=
  if rxHasRoom s then .next (rxPush s b) else .refused .receiveOverrun

/-- RESET (R230). -/
def execReset (s : State) : StepResult := .next (resetAll s)

/-- FIRE (R171): leaves WAIT_FRAME once `L + S` bytes are buffered; on a short frame the protocol waits, which changes
nothing (R57, R201). -/
def execFire (s : State) : StepResult :=
  inPhase .waitFrame s fun s =>
    if s.config.frameLen ≤ rxAvail s then .next (setPhase s .consumeFrame) else .next s

/-- CONSUME (R172): the oldest `L + S` bytes become the frame. -/
def execConsume (s : State) : StepResult :=
  inPhase .consumeFrame s fun s =>
    match rxPopMany s.config.frameLen s with
    | some (bytes, t) => .next (setPhase { t with frame := some bytes } .updateState)
    | none => .fault .rxUnderflow

/-- UPDATE (R173): DECODE of the frame; the frame stays for ECHO. -/
def execUpdate (s : State) : StepResult :=
  inPhase .updateState s fun s =>
    withFrame s fun f => andThen (execDecodeFrame f s) fun t => .next (setPhase t .echo)

/-- ECHO (R174): the frame's bytes are written to the link, first byte first. -/
def execEcho (s : State) : StepResult :=
  inPhase .echo s fun s =>
    withFrame s fun f => .next (setPhase { txWriteAll s f with frame := none } .resync)

/-- The effect of a popped byte in RESYNC (R175): the delimiter ends the phase, any other byte is discarded. -/
def resyncByte (b : Byte) (s : State) : State :=
  if b = s.config.delim then setPhase s .waitFrame else setPhase s .resync

/-- RESYNC (R175): one byte is popped; with no byte buffered the protocol waits, which changes nothing. -/
def execResync (s : State) : StepResult :=
  inPhase .resync s fun s =>
    match rxPop s with
    | some (b, t) => .next (resyncByte b t)
    | none => .next s

/-- RESYNC on a byte of the class `isDelim` (R87, R175); it waits like RESYNC while no byte is buffered. -/
def resyncClass (isDelim : Bool) (want : Byte) (s : State) : StepResult :=
  inPhase .resync s fun s =>
    match rxPop s with
    | some (b, t) => if b = want ∧ decide (b = s.config.delim) = isDelim then .next (resyncByte b t) else .fault .byteClass
    | none => .next s

/-- DELIM (R175): the byte popped is the delimiter. -/
def execDelim (s : State) : StepResult := resyncClass true s.config.delim s

/-- SKIP (R175): the byte popped is `b`, which is not the delimiter. -/
def execSkip (b : Byte) (s : State) : StepResult := resyncClass false b s

end Sys2Proof.Machine
end

