-- ==== Sys2Proof/Machine/Flags.lean ====
section
/-! DEFINITION. The block's one flag, `direction[i]` (R32), and the boundary reflection that computes it with the new
position (R151 steps 2 and 3, R154). -/

namespace Sys2Proof.Machine

/-- DEC: the direction flag is true (R14). -/
abbrev DEC : Bool := true

/-- INC: the direction flag is false (R14). -/
abbrev INC : Bool := false

/-- R151 step 2: the moved value, on mathematical integers (R158). -/
def movedPosition (dir : Bool) (pos : Int) (delta : Nat) : Int :=
  if dir = DEC then pos - delta else pos + delta

/-- R151 step 3 on the moved value `p`: MIN_POS is tested first, both tests are reach-or-exceed, and the flag is toggled
whatever its old value (R154). The answer is the new position and the new flag. -/
def reflect (c : Config) (dir : Bool) (p : Int) : Int × Bool :=
  if p ≤ c.minPos then (c.minPos, !dir)
  else if p ≥ c.maxPos then (c.maxPos, !dir)
  else (p, dir)

end Sys2Proof.Machine
end

