-- ==== Sys2Proof/Machine/Stepper.lean ====
section
/-! DEFINITION. The ActuatorStepper: SERVO_STEP (R151), LED_EMIT (R153), TICK (R150). -/

namespace Sys2Proof.Machine

/-- R151: move by the table's step, reflect at the bounds, write the new position to the output. -/
def servoStep (i : Nat) (s : State) : StepResult :=
  match readPosition s i, readDirection s i, readSpeedCode s i with
  | some pos, some dir, some code =>
    let r := reflect s.config dir (movedPosition dir pos (tableEntry s.config code))
    .next (servoWrite (writePosition (writeDirection s i r.2) i r.1) i r.1)
  | _, _, _ => .refused .indexOutOfRange

/-- R153: write the latched brightness to the output. -/
def ledEmit (j : Nat) (s : State) : StepResult :=
  match readBrightness s j with
  | some v => .next (pwmWrite s j v)
  | none => .refused .indexOutOfRange

/-- SERVO_STEP (R151). -/
def execServoStep (i : Nat) (s : State) : StepResult := servoStep i s

/-- LED_EMIT (R153). -/
def execLedEmit (j : Nat) (s : State) : StepResult := ledEmit j s

/-- TICK (R150): every servo in ascending order, then every LED in ascending order (R152), where the phase enables it. -/
def execTick (s : State) : StepResult :=
  if tickEnabled s then
    andThen (forEach servoStep (List.range s.config.S) s) (forEach ledEmit (List.range s.config.L))
  else .fault .tickHeld

end Sys2Proof.Machine
end

