-- ==== Sys2Proof/Machine/Table.lean ====
section
/-! DEFINITION. The internal read and write ports run by themselves: LOOKUP (R110), BANK.RD (R120), BANK.WR (R121). Each
writes no state of the block but the register BANK.WR names; what a port returns is put in `result`, the model's own. -/

namespace Sys2Proof.Machine

/-- LOOKUP (R110). -/
def execLookup (code : Byte) (s : State) : StepResult :=
  .next { s with result := some (.stepMagnitude (tableEntry s.config code)) }

/-- BANK.RD (R120). -/
def execBankRd (sel : BankSel) (n : Nat) (s : State) : StepResult :=
  match bankRead s sel n with
  | none => .refused .indexOutOfRange
  | some v => .next { s with result := some (.register v) }

/-- BANK.WR (R121). -/
def execBankWr (n : Nat) (v : BankValue) (s : State) : StepResult := bankWrite s n v

end Sys2Proof.Machine
end

