-- ==== Sys2Proof/Machine/Dispatch.lean ====
section
/-! DEFINITION. One arm per operation of the table: the meaning it calls. -/

namespace Sys2Proof.Machine

def exec (i : Instr) (s : State) : Host.Outcome State Fault Refusal :=
  match i with
  | .idle => Sys2Proof.Machine.execIdle s
  | .rxpush b => Sys2Proof.Machine.execRxpush b s
  | .tick => Sys2Proof.Machine.execTick s
  | .reset => Sys2Proof.Machine.execReset s
  | .fire => Sys2Proof.Machine.execFire s
  | .consume => Sys2Proof.Machine.execConsume s
  | .update => Sys2Proof.Machine.execUpdate s
  | .echo => Sys2Proof.Machine.execEcho s
  | .resync => Sys2Proof.Machine.execResync s
  | .frameLed k b => Sys2Proof.Machine.execFrameLed k b s
  | .frameSpd k b => Sys2Proof.Machine.execFrameSpd k b s
  | .delim => Sys2Proof.Machine.execDelim s
  | .skip b => Sys2Proof.Machine.execSkip b s
  | .lookup c => Sys2Proof.Machine.execLookup c s
  | .servoStep n => Sys2Proof.Machine.execServoStep n s
  | .ledEmit n => Sys2Proof.Machine.execLedEmit n s
  | .decodeFrame raw => Sys2Proof.Machine.execDecodeFrame raw s
  | .bankRd sel n => Sys2Proof.Machine.execBankRd sel n s
  | .bankWr n v => Sys2Proof.Machine.execBankWr n v s

end Sys2Proof.Machine
end

