-- ==== Sys2Proof/Machine/Fetch.lean ====
section
/-! DEFINITION. Which operation moves next (R10, R64). The block fetches no program (R68): the schedule names a turn, an
external event is taken from the turn, and a turn of the link protocol takes the micro-step that `phase` selects (R83).
A TICK that falls due where the phase holds it is not lost: the protocol goes first and the tick stays due (R65). -/

namespace Sys2Proof.Machine

/-- The event word is a TICK (R81). -/
def isTickWord (w : EventWord) : Bool := eventKind w == 0b10#2

/-- The next operation in its encoded form, and the state with its turn taken. An exhausted schedule gives every further
turn to the link protocol, as the directive RUN does (R94). -/
def fetch (s : State) : OpWord × State :=
  match s.schedule with
  | [] => (.int s.phase.code, s)
  | .protocol :: rest => (.int s.phase.code, { s with schedule := rest })
  | .event w :: rest =>
    if isTickWord w && !tickEnabled s then (.int s.phase.code, s) else (.ev w, { s with schedule := rest })

/-- The receive buffer, filled with zero bytes up to `n` bytes. -/
def padRx (n : Nat) (s : State) : State := { s with rx := s.rx ++ List.replicate (n - s.rx.length) 0 }

/-- The frame buffer, filled with a frame of zero bytes where it holds none. -/
def padFrame (s : State) : State :=
  match s.frame with
  | some _ => s
  | none => { s with frame := some (List.replicate s.config.frameLen 0) }

/-- `s` with the given turn put first. -/
def putTurn (t : Slot) (s : State) : State := { s with schedule := t :: s.schedule }

/-- `s` made ready so that the very next step runs the micro-step with this phase code: the phase, the buffered bytes and
the frame it needs. -/
def placePhase (code : PhaseCode) (s : State) : State :=
  if code = 0b000#3 then padRx s.config.frameLen { s with phase := .waitFrame }
  else if code = 0b001#3 then padRx s.config.frameLen { s with phase := .consumeFrame }
  else if code = 0b010#3 then padFrame { s with phase := .updateState }
  else if code = 0b011#3 then padFrame { s with phase := .echo }
  else padRx 1 { s with phase := .resync }

/-- `s` made ready so that the very next step runs the operation that a table row's bits stand for
(notes/assumptions/8.md). -/
def placeWord (s : State) (nbits w : Nat) : State :=
  match tableOpWord nbits w with
  | some (.ev e) =>
    if isTickWord e && !tickEnabled s then putTurn (.event e) { s with phase := .waitFrame } else putTurn (.event e) s
  | some (.int code) => putTurn .protocol (placePhase code s)
  | some (.wireResync b) => putTurn .protocol { s with phase := .resync, rx := b :: s.rx }
  | _ => s

end Sys2Proof.Machine
end

