-- ==== Sys2Proof/Machine/Step.lean ====
section
/-! DEFINITION. One step of the block: the operation that moves next is decoded and run (R10). -/

namespace Sys2Proof.Machine

/-- One atomic step (R10, R63). -/
def step (s : State) : Host.Outcome State Fault Refusal :=
  match decode s.config (fetch s).1 with
  | .ok i => exec i (fetch s).2
  | .error e => .refused (.undecodable e)

/-- `s` with a table row's operation placed where the next step takes it. -/
def State.withFetchWord (s : State) (nbits w : Nat) : State := placeWord s nbits w

end Sys2Proof.Machine
end

