-- ==== Sys2Proof/Safety.lean ====
section
/-! DEFINITION. What claims about the block are stated in: the sizes of the arrays, the invariant of every run (R38, R157,
R31, R69), which operation a state takes next, which operations are enabled (R64), and sequences of operations. -/

namespace Sys2Proof.Machine

/-- Every channel array has one register per channel (R24, R31). -/
abbrev ArraysSized (s : State) : Prop :=
  s.position.length = s.config.S ∧ s.direction.length = s.config.S ∧ s.speedCode.length = s.config.S ∧
  s.brightness.length = s.config.L ∧ s.servoOut.length = s.config.S ∧ s.ledOut.length = s.config.L

/-- The frame buffer holds a frame of `L + S` bytes in UPDATE_STATE and ECHO and nothing elsewhere (R27, R38 (b)). -/
abbrev FrameHeld (s : State) : Prop :=
  if s.phase = .updateState ∨ s.phase = .echo then s.frame.map List.length = some s.config.frameLen
  else s.frame = none

/-- A whole frame is buffered in CONSUME_FRAME (R38 (c)), and no more bytes than the buffer holds (R69). -/
abbrev RxBounded (s : State) : Prop :=
  (s.phase = .consumeFrame → s.config.frameLen ≤ s.rx.length) ∧ ∀ cap ∈ s.config.rxCap.toList, s.rx.length ≤ cap

/-- The histories have the lengths of R38 (d): `tx` is the banner and whole echoes, `out` is whole ticks. -/
abbrev HistoriesWhole (s : State) : Prop :=
  s.config.banner <+: s.tx ∧ s.config.frameLen ∣ (s.tx.length - s.config.banner.length) ∧
  s.config.frameLen ∣ s.out.length

/-- The range of R38 (a): every position is within the bounds, or no TICK has run since reset and every position is 0
with its direction INC. -/
abbrev PositionsBounded (s : State) : Prop :=
  (∀ p ∈ s.position, s.config.minPos ≤ p ∧ p ≤ s.config.maxPos) ∨
  (s.out = [] ∧ (∀ p ∈ s.position, p = 0) ∧ ∀ d ∈ s.direction, d = INC)

/-- An output write names a channel that exists and a servo write carries a value within the bounds (R93, R157). -/
def eventInRange (c : Config) : OutEvent → Bool
  | .servo i v => decide (i < c.S) && decide (c.minPos ≤ v) && decide (v ≤ c.maxPos)
  | .pwm j _ => decide (j < c.L)

/-- The value of the last servo write to channel `i` in a history, none before the first (R31). -/
def lastServo (i : Nat) : List OutEvent → Option Int
  | [] => none
  | .servo k v :: es => (lastServo i es).or (if k = i then some v else none)
  | .pwm _ _ :: es => lastServo i es

/-- The value of the last PWM write to channel `j` in a history, none before the first (R31). -/
def lastPwm (j : Nat) : List OutEvent → Option Byte
  | [] => none
  | .pwm k v :: es => (lastPwm j es).or (if k = j then some v else none)
  | .servo _ _ :: es => lastPwm j es

/-- The output latches are a function of `out` (R31). -/
abbrev LatchesFollowOut (s : State) : Prop :=
  (∀ i, i < s.config.S → s.servoOut[i]? = some (lastServo i s.out)) ∧
  (∀ j, j < s.config.L → s.ledOut[j]? = some (lastPwm j s.out))

/-- Every output write of the history is in range. -/
abbrev EventsInRange (s : State) : Prop := ∀ e ∈ s.out, eventInRange s.config e = true

/-- The invariant of every run (R38). -/
structure Inv (s : State) : Prop where
  valid : s.config.Valid
  sized : ArraysSized s
  frame : FrameHeld s
  rx : RxBounded s
  histories : HistoriesWhole s
  positions : PositionsBounded s
  events : EventsInRange s
  latches : LatchesFollowOut s

/-- The operation a state takes next; none where the decoder rejects what is fetched. -/
def nextOp (s : State) : Option Instr := (decode s.config (fetch s).1).toOption

/-- The steps enabled in a state (R64): the events, and the one micro-step that `phase` selects when its own condition
holds. The operations that are no steps of their own (WIRE, SUB) are enabled in none (R86, R123). -/
def enabled (s : State) : Instr → Bool
  | .idle => true
  | .rxpush _ => rxHasRoom s
  | .tick => tickEnabled s
  | .reset => true
  | .fire => linkPending s
  | .consume => decide (s.phase = .consumeFrame)
  | .update => decide (s.phase = .updateState)
  | .echo => decide (s.phase = .echo)
  | .resync => decide (s.phase = .resync) && !s.rx.isEmpty
  | .frameLed _ _ => false
  | .frameSpd _ _ => false
  | .delim => false
  | .skip _ => false
  | .lookup _ => false
  | .servoStep _ => false
  | .ledEmit _ => false
  | .decodeFrame _ => false
  | .bankRd _ _ => false
  | .bankWr _ _ => false

/-- The operations of a list run one after the other. -/
def execAll : List Instr → State → StepResult
  | [], s => .next s
  | i :: is, s => andThen (exec i s) (execAll is)

/-- `n` steps of the machine. -/
def steps : Nat → State → StepResult
  | 0, s => .next s
  | n + 1, s => andThen (step s) (steps n)

end Sys2Proof.Machine
end

