-- ==== Sys2Proof/Certificates/Slice0/Obligations.lean ====
section
/-! DEFINITION. The statements about the block, from the numbered rules of spec/. Each docstring names the rule it rests
on; a statement that rests on a sentence the spec marks `[decision]` or `[derived]`, or on a choice of the model, says so.
`DEC` is true and `INC` is false (R14). -/

open Sys2Proof Sys2Proof.Machine

/-! ### The events -/

/-- R176 (spec decision D17): IDLE changes no state. -/
def Obligations.IdleChangesNothing : Prop :=
  ∀ s : State, exec .idle s = .next s

/-- R170, R69 (spec decisions D17, D7): RXPUSH appends the byte at the young end of `rx` while the buffer has room, and
has no step on a full buffer (the refusal's name is the model's, notes/assumptions/9.md). -/
def Obligations.RxPushAppendsWhileThereIsRoom : Prop :=
  (∀ (s : State) (b : Byte), s.config.rxCap = none → exec (.rxpush b) s = .next { s with rx := s.rx ++ [b] }) ∧
  (∀ (s : State) (b : Byte) (cap : Nat), s.config.rxCap = some cap → s.rx.length < cap →
    exec (.rxpush b) s = .next { s with rx := s.rx ++ [b] }) ∧
  (∀ (s : State) (b : Byte) (cap : Nat), s.config.rxCap = some cap → cap ≤ s.rx.length →
    exec (.rxpush b) s = .refused .receiveOverrun)

/-- R230, R37 (the values of `brightness`, `phase`, `frame`, `rx`, `tx`, `out` and the latches are the spec's decisions;
`result` and `schedule` are the model's own fields, notes/assumptions/3.md and 5.md): RESET, in every state, puts every
component of the block at its reset value. -/
def Obligations.ResetPutsEveryComponentAtItsResetValue : Prop :=
  ∀ s : State, exec .reset s = .next
    { config := s.config
      position := List.replicate s.config.S 0
      direction := List.replicate s.config.S INC
      speedCode := List.replicate s.config.S 0
      brightness := s.config.brightReset
      phase := .waitFrame
      frame := none
      rx := []
      tx := s.config.banner
      out := []
      servoOut := List.replicate s.config.S none
      ledOut := List.replicate s.config.L none
      result := none
      schedule := s.schedule }

/-- R150: where the phase enables it, TICK completes; every servo channel gets what SERVO_STEP gives it, every LED
channel is emitted, `out` grows by exactly `S + L` events, one for each channel, and nothing else is written. In every
other phase TICK is not enabled. The order of the new events is left to TickWritesServosThenLedsAscending. -/
def Obligations.TickStepsEveryServoAndEmitsEveryLed : Prop :=
  (∀ s : State, ArraysSized s → (s.phase = .waitFrame ∨ (s.phase = .resync ∧ s.config.tickInResync = true)) →
    ∃ t es, exec .tick s = .next t ∧
      t = { s with position := t.position, direction := t.direction, out := s.out ++ es,
                   servoOut := t.servoOut, ledOut := t.ledOut } ∧
      ArraysSized t ∧ es.length = s.config.S + s.config.L ∧
      (∀ i, i < s.config.S → ∃ u v, exec (.servoStep i) s = .next u ∧
        u.position[i]? = some v ∧ t.position[i]? = some v ∧ t.direction[i]? = u.direction[i]? ∧
        t.servoOut[i]? = some (some v) ∧ .servo i v ∈ es) ∧
      (∀ j, j < s.config.L → ∃ v, s.brightness[j]? = some v ∧ t.ledOut[j]? = some (some v) ∧ .pwm j v ∈ es)) ∧
  (∀ s : State, s.phase = .consumeFrame ∨ s.phase = .updateState ∨ s.phase = .echo ∨
      (s.phase = .resync ∧ s.config.tickInResync = false) → exec .tick s = .fault .tickHeld)

/-- R152 (spec decision D19): the events of one TICK are the servos in ascending order and then the LEDs in ascending
order. -/
def Obligations.TickWritesServosThenLedsAscending : Prop :=
  ∀ s t : State, ArraysSized s → exec .tick s = .next t →
    ∃ f : Nat → Int, ∃ g : Nat → Byte,
      t.out = s.out ++ (List.range s.config.S).map (fun i => .servo i (f i)) ++
        (List.range s.config.L).map (fun j => .pwm j (g j))

/-! ### The stepper -/

/-- R110: LOOKUP of any byte completes with the table's entry, which the model hands back in `result` (the model's own
field, notes/assumptions/5.md), and writes nothing else; the default table answers 0 for 0, 4 for 128 and 5 for 255. -/
def Obligations.LookupReturnsTheTableEntry : Prop :=
  (∀ (s : State) (code : Byte), exec (.lookup code) s =
    .next { s with result := some (.stepMagnitude (s.config.speedTable[code.toNat]'code.isLt)) }) ∧
  (∀ (s : State), s.config.speedTable = Config.defaultTable →
    exec (.lookup 0) s = .next { s with result := some (.stepMagnitude 0) } ∧
    exec (.lookup 128) s = .next { s with result := some (.stepMagnitude 4) } ∧
    exec (.lookup 255) s = .next { s with result := some (.stepMagnitude 5) })

/-- R112 ([derived] from R111): the default table is constant on six runs of keys; R113: it is non-decreasing. -/
def Obligations.DefaultTableIsSixRuns : Prop :=
  (∀ code : Byte, (code.toNat ≤ 23 → tableEntry Config.default code = 0) ∧
    (24 ≤ code.toNat → code.toNat ≤ 38 → tableEntry Config.default code = 1) ∧
    (39 ≤ code.toNat → code.toNat ≤ 63 → tableEntry Config.default code = 2) ∧
    (64 ≤ code.toNat → code.toNat ≤ 104 → tableEntry Config.default code = 3) ∧
    (105 ≤ code.toNat → code.toNat ≤ 172 → tableEntry Config.default code = 4) ∧
    (173 ≤ code.toNat → tableEntry Config.default code = 5)) ∧
  (∀ a b : Byte, a ≤ b → tableEntry Config.default a ≤ tableEntry Config.default b)

/-- R111 (spec decision D4: the closed form read exactly): every entry of the default table is 0 where `c * c / 200` is
at most 1 (0 among them), and the floor of its natural logarithm otherwise. -/
def Obligations.DefaultTableIsTheClosedForm : Prop :=
  ∀ code : Byte, (tableEntry Config.default code : Int) =
    if (code.toNat : ℝ) ^ 2 / 200 ≤ 1 then 0 else ⌊Real.log ((code.toNat : ℝ) ^ 2 / 200)⌋

/-- R151, R154: SERVO_STEP moves by the table's step in the channel's direction, then tests the moved value, MIN_POS
first, each test reach-or-exceed; a test that holds negates the flag and clamps; the new position is written to the
output. Nothing else changes. -/
def Obligations.ServoStepMovesThenReflects : Prop :=
  ∀ (s : State) (i : Nat) (pos : Int) (dir : Bool) (code : Byte),
    s.position[i]? = some pos → s.direction[i]? = some dir → s.speedCode[i]? = some code →
    ∀ p : Int, p = (if dir = DEC then pos - (s.config.speedTable[code.toNat]'code.isLt : Nat)
        else pos + (s.config.speedTable[code.toNat]'code.isLt : Nat)) →
      exec (.servoStep i) s = .next (
        if p ≤ s.config.minPos then
          { s with direction := s.direction.set i (!dir), position := s.position.set i s.config.minPos,
                   out := s.out ++ [.servo i s.config.minPos],
                   servoOut := s.servoOut.set i (some s.config.minPos) }
        else if s.config.maxPos ≤ p then
          { s with direction := s.direction.set i (!dir), position := s.position.set i s.config.maxPos,
                   out := s.out ++ [.servo i s.config.maxPos],
                   servoOut := s.servoOut.set i (some s.config.maxPos) }
        else
          { s with position := s.position.set i p, out := s.out ++ [.servo i p],
                   servoOut := s.servoOut.set i (some p) })

/-- R157: after every SERVO_STEP, for every table and from every prior state, the channel's position, the value written
to the servo and its latch are within the bounds; after every TICK so is every position. -/
def Obligations.ServoStepEndsWithinTheBounds : Prop :=
  (∀ (s : State) (i : Nat), ArraysSized s → s.config.minPos < s.config.maxPos → i < s.config.S →
    ∃ t v, exec (.servoStep i) s = .next t ∧ s.config.minPos ≤ v ∧ v ≤ s.config.maxPos ∧
      t.position[i]? = some v ∧ t.servoOut[i]? = some (some v) ∧ t.out = s.out ++ [.servo i v]) ∧
  (∀ s t : State, ArraysSized s → s.config.minPos < s.config.maxPos → exec .tick s = .next t →
    ∀ p ∈ t.position, s.config.minPos ≤ p ∧ p ≤ s.config.maxPos)

/-- R153, R230 (spec decisions D6, D13): LED_EMIT writes the latched brightness, unchanged, to the PWM output and nothing
else; in the reset state that value is `BRIGHT_RESET[j]`; a step that changes a LED latch is a TICK, or the RESET that
empties it. -/
def Obligations.LedEmitWritesTheLatchedBrightness : Prop :=
  (∀ (s : State) (j : Nat) (v : Byte), s.brightness[j]? = some v →
    exec (.ledEmit j) s = .next { s with out := s.out ++ [.pwm j v], ledOut := s.ledOut.set j (some v) }) ∧
  (∀ (c : Config) (j : Nat) (v : Byte), c.brightReset[j]? = some v → ∃ t,
    exec (.ledEmit j) (State.resetOf c) = .next t ∧ t.out = [.pwm j v]) ∧
  (∀ s t : State, step s = .next t → t.ledOut ≠ s.ledOut → nextOp s = some .tick ∨ nextOp s = some .reset)

/-- R155 ([derived] from R151): a TICK with `delta = 0` toggles the flag of a servo that stands on a bound and leaves it
there; strictly between the bounds it changes neither register. -/
def Obligations.TickWithZeroDeltaTogglesOnTheBounds : Prop :=
  ∀ (s : State) (i : Nat) (pos : Int) (dir : Bool) (code : Byte),
    ArraysSized s → s.config.minPos < s.config.maxPos → tickEnabled s = true →
    s.position[i]? = some pos → s.direction[i]? = some dir → s.speedCode[i]? = some code →
    tableEntry s.config code = 0 → s.config.minPos ≤ pos → pos ≤ s.config.maxPos →
    ∃ t, exec .tick s = .next t ∧ t.position[i]? = some pos ∧
      t.direction[i]? = some (if pos = s.config.minPos ∨ pos = s.config.maxPos then !dir else dir)

/-- R156 ([derived] from R151 and R37): the first TICK after reset puts a servo on MIN_POS with DEC, the next keeps it
there with INC, and only the third can move it. What the protocol latches between the TICKs is free, so each is stated
from the registers the one before it leaves. -/
def Obligations.FirstTicksAfterResetStayOnMinPos : Prop :=
  ∀ (s : State) (i : Nat) (code : Byte),
    ArraysSized s → s.config.minPos < s.config.maxPos → tickEnabled s = true → s.speedCode[i]? = some code →
    (s.position[i]? = some 0 → s.direction[i]? = some INC → (tableEntry s.config code : Int) ≤ s.config.minPos →
      ∃ t, exec .tick s = .next t ∧ t.position[i]? = some s.config.minPos ∧ t.direction[i]? = some DEC) ∧
    (s.position[i]? = some s.config.minPos → s.direction[i]? = some DEC →
      ∃ t, exec .tick s = .next t ∧ t.position[i]? = some s.config.minPos ∧ t.direction[i]? = some INC) ∧
    (s.position[i]? = some s.config.minPos → s.direction[i]? = some INC → 0 < tableEntry s.config code →
      s.config.minPos + tableEntry s.config code < s.config.maxPos →
      ∃ t, exec .tick s = .next t ∧ t.position[i]? = some (s.config.minPos + tableEntry s.config code) ∧
        t.direction[i]? = some INC)

/-- R158 ([derived], spec decision D5): in every state of a run, under the no-wrap condition, a position and the moved
value computed from it fit the `POS_W`-bit register, so mathematical integers are exact. -/
def Obligations.PositionsNeverWrap : Prop :=
  ∀ (s : State) (i : Nat) (pos : Int) (dir : Bool) (code : Byte),
    Inv s → s.config.NoWrap → s.position[i]? = some pos → s.direction[i]? = some dir → s.speedCode[i]? = some code →
    s.config.FitsPos pos ∧ s.config.FitsPos (movedPosition dir pos (tableEntry s.config code))

/-- R159 ([derived] from R151): with a constant step `d > 0` a servo that stands on MIN_POS with INC climbs by `d` a TICK,
reaches MAX_POS with DEC at TICK `K = ceil (R / d)`, descends by `d` a TICK, and is back at TICK `2 * K`. -/
def Obligations.ConstantStepSweepsWithPeriodTwoK : Prop :=
  ∀ (s : State) (i : Nat) (code : Byte) (d K : Nat),
    ArraysSized s → s.config.minPos < s.config.maxPos → tickEnabled s = true →
    s.position[i]? = some s.config.minPos → s.direction[i]? = some INC → s.speedCode[i]? = some code →
    tableEntry s.config code = d → 0 < d → K = ((s.config.maxPos - s.config.minPos).toNat + d - 1) / d →
    (∀ k, k < K → ∃ t, execAll (List.replicate k .tick) s = .next t ∧
      t.position[i]? = some (s.config.minPos + k * d) ∧ t.direction[i]? = some INC) ∧
    (∀ k, k < K → ∃ t, execAll (List.replicate (K + k) .tick) s = .next t ∧
      t.position[i]? = some (s.config.maxPos - k * d) ∧ t.direction[i]? = some DEC) ∧
    (∃ t, execAll (List.replicate (2 * K) .tick) s = .next t ∧
      t.position[i]? = some s.config.minPos ∧ t.direction[i]? = some INC)

/-- R160 ([derived] from R151, R153): two blocks that agree on servo channel `i` agree on it after a TICK, whatever their
other channels, link and histories hold. -/
def Obligations.TickKeepsServoChannelsIndependent : Prop :=
  ∀ (s s' t t' : State) (i : Nat), ArraysSized s → ArraysSized s' → s.config = s'.config →
    s.position[i]? = s'.position[i]? → s.direction[i]? = s'.direction[i]? → s.speedCode[i]? = s'.speedCode[i]? →
    exec .tick s = .next t → exec .tick s' = .next t' →
    t.position[i]? = t'.position[i]? ∧ t.direction[i]? = t'.direction[i]? ∧ t.servoOut[i]? = t'.servoOut[i]?

/-- R151, R153, R150 (what is written and what is not): the stepper's operations leave the speed codes, the brightness
registers, the whole link side, the configuration and the model's own fields as they were; SERVO_STEP leaves the LED latches
and every other servo channel, LED_EMIT leaves the servo side. -/
def Obligations.StepperOperationsFrame : Prop :=
  (∀ (s t : State) (i : Instr), i = .tick ∨ (∃ n, i = .servoStep n) ∨ (∃ n, i = .ledEmit n) → exec i s = .next t →
    t.config = s.config ∧ t.speedCode = s.speedCode ∧ t.brightness = s.brightness ∧ t.phase = s.phase ∧
    t.frame = s.frame ∧ t.rx = s.rx ∧ t.tx = s.tx ∧ t.result = s.result ∧ t.schedule = s.schedule) ∧
  (∀ (s t : State) (n : Nat), exec (.servoStep n) s = .next t → t.ledOut = s.ledOut ∧
    ∀ k, k ≠ n → t.position[k]? = s.position[k]? ∧ t.direction[k]? = s.direction[k]? ∧ t.servoOut[k]? = s.servoOut[k]?) ∧
  (∀ (s t : State) (n : Nat), exec (.ledEmit n) s = .next t → t.position = s.position ∧ t.direction = s.direction ∧
    t.servoOut = s.servoOut ∧ ∀ k, k ≠ n → t.ledOut[k]? = s.ledOut[k]?)

/-! ### The channel bank -/

/-- R120: BANK.RD returns the current value of the register (in `result`, the model's own field, notes/assumptions/5.md)
and writes nothing of the block; an index outside the array is no value but a refusal. -/
def Obligations.BankReadReturnsTheRegister : Prop :=
  (∀ (s : State) (n : Nat) (v : Int), s.position[n]? = some v →
    exec (.bankRd .position n) s = .next { s with result := some (.register (.position v)) }) ∧
  (∀ (s : State) (n : Nat) (v : Bool), s.direction[n]? = some v →
    exec (.bankRd .direction n) s = .next { s with result := some (.register (.direction v)) }) ∧
  (∀ (s : State) (n : Nat) (v : Byte), s.speedCode[n]? = some v →
    exec (.bankRd .speedCode n) s = .next { s with result := some (.register (.speedCode v)) }) ∧
  (∀ (s : State) (n : Nat) (v : Byte), s.brightness[n]? = some v →
    exec (.bankRd .brightness n) s = .next { s with result := some (.register (.brightness v)) }) ∧
  (∀ (s : State) (sel : BankSel) (n : Nat), ArraysSized s → sel.size s.config ≤ n →
    exec (.bankRd sel n) s = .refused .indexOutOfRange)

/-- R121: BANK.WR writes the named register and no other; an index outside the array is refused; a BANK.RD after it
returns the value written. -/
def Obligations.BankWriteChangesOneRegister : Prop :=
  (∀ (s : State) (n : Nat) (v : Int), n < s.position.length →
    exec (.bankWr n (.position v)) s = .next { s with position := s.position.set n v }) ∧
  (∀ (s : State) (n : Nat) (v : Bool), n < s.direction.length →
    exec (.bankWr n (.direction v)) s = .next { s with direction := s.direction.set n v }) ∧
  (∀ (s : State) (n : Nat) (v : Byte), n < s.speedCode.length →
    exec (.bankWr n (.speedCode v)) s = .next { s with speedCode := s.speedCode.set n v }) ∧
  (∀ (s : State) (n : Nat) (v : Byte), n < s.brightness.length →
    exec (.bankWr n (.brightness v)) s = .next { s with brightness := s.brightness.set n v }) ∧
  (∀ (s : State) (n : Nat) (v : BankValue), ArraysSized s → v.sel.size s.config ≤ n →
    exec (.bankWr n v) s = .refused .indexOutOfRange) ∧
  (∀ (s t : State) (n : Nat) (v : BankValue), exec (.bankWr n v) s = .next t →
    exec (.bankRd v.sel n) t = .next { t with result := some (.register v) })

/-! ### The frame decoder -/

/-- R140: DECODE of exactly `L + S` bytes writes every brightness register and every speed code from its byte and nothing
else; decoding the same frame again changes nothing; another size is refused. -/
def Obligations.DecodeSplitsTheFrame : Prop :=
  (∀ (s : State) (raw : List Byte), raw.length = s.config.frameLen → ∃ t,
    exec (.decodeFrame raw) s = .next t ∧
    t = { s with brightness := t.brightness, speedCode := t.speedCode } ∧
    t.brightness.length = s.config.L ∧ t.speedCode.length = s.config.S ∧
    (∀ j, j < s.config.L → t.brightness[j]? = raw[j]?) ∧
    (∀ i, i < s.config.S → t.speedCode[i]? = raw[s.config.L + i]?) ∧
    exec (.decodeFrame raw) t = .next t) ∧
  (∀ (s : State) (raw : List Byte), raw.length ≠ s.config.frameLen → exec (.decodeFrame raw) s = .refused .frameSize)

/-- R141, R142, R51: the frame byte at offset `k` is stored unchanged in `brightness[k]` for `k < L` and in
`speed_code[k - L]` for `L ≤ k < L + S`; every other register keeps its value, and an offset of the other segment or
outside the frame is refused. -/
def Obligations.FrameByteGoesToItsChannel : Prop :=
  ∀ (s : State) (k : Nat) (b : Byte), ArraysSized s →
    (k < s.config.L → exec (.frameLed k b) s = .next { s with brightness := s.brightness.set k b }) ∧
    (s.config.L ≤ k → k < s.config.L + s.config.S →
      exec (.frameSpd k b) s = .next { s with speedCode := s.speedCode.set (k - s.config.L) b }) ∧
    (s.config.L ≤ k → exec (.frameLed k b) s = .refused .indexOutOfRange) ∧
    (k < s.config.L ∨ s.config.L + s.config.S ≤ k → exec (.frameSpd k b) s = .refused .indexOutOfRange)

/-- R143: DECODE is every frame byte stored by its offset alone, each in exactly one segment. -/
def Obligations.DecodeIsEveryFrameByteOnce : Prop :=
  ∀ (s : State) (raw : List Byte), ArraysSized s → raw.length = s.config.frameLen →
    execAll (raw.mapIdx fun k b => if k < s.config.L then .frameLed k b else .frameSpd k b) s =
      exec (.decodeFrame raw) s

/-- R53: byte 0 of a frame is the oldest byte of `rx`; frame byte `k` goes to `brightness[k]` when `k < L` and to
`speed_code[k - L]` when `L ≤ k < L + S`. -/
def Obligations.ReceivedBytesReachChannelsByOffset : Prop :=
  ∀ s : State, s.phase = .consumeFrame → s.config.frameLen ≤ s.rx.length → ∃ t,
    execAll [.consume, .update] s = .next t ∧
    (∀ k, k < s.config.frameLen → (t.frame.getD [])[k]? = s.rx[k]?) ∧
    (∀ k, k < s.config.L → t.brightness[k]? = s.rx[k]?) ∧
    (∀ k, s.config.L ≤ k → k < s.config.L + s.config.S → t.speedCode[k - s.config.L]? = s.rx[k]?)

/-! ### The link protocol -/

/-- R171: FIRE moves WAIT_FRAME to CONSUME_FRAME when `L + S` bytes or more are buffered, and writes `phase` only; with
fewer bytes the protocol waits, nothing changes, and TICK stays enabled. -/
def Obligations.FireLeavesWaitFrameOnAWholeFrame : Prop :=
  ∀ s : State, s.phase = .waitFrame →
    (s.config.L + s.config.S ≤ s.rx.length → exec .fire s = .next { s with phase := .consumeFrame }) ∧
    (s.rx.length < s.config.L + s.config.S → exec .fire s = .next s ∧ enabled s .fire = false ∧ enabled s .tick = true)

/-- R172: CONSUME makes the oldest `L + S` bytes the frame, keeps the rest of `rx` in order, and writes nothing else. -/
def Obligations.ConsumeTakesTheOldestBytes : Prop :=
  ∀ (s : State) (f rest : List Byte), s.phase = .consumeFrame → f.length = s.config.L + s.config.S → s.rx = f ++ rest →
    exec .consume s = .next { s with rx := rest, frame := some f, phase := .updateState }

/-- R173: UPDATE is DECODE of the frame and goes to ECHO; the frame is kept. -/
def Obligations.UpdateLatchesTheFrame : Prop :=
  ∀ (s : State) (f : List Byte), s.phase = .updateState → s.frame = some f → f.length = s.config.L + s.config.S →
    exec .update s =
        .next { s with brightness := f.take s.config.L, speedCode := f.drop s.config.L, phase := .echo } ∧
      ∃ t, exec (.decodeFrame f) s = .next t ∧ exec .update s = .next { t with phase := .echo }

/-- R174, R54: ECHO appends the frame's bytes to `tx`, first byte first, empties the frame buffer and goes to RESYNC;
after an UPDATE those bytes are the brightness registers and then the speed codes. -/
def Obligations.EchoWritesTheFrameBack : Prop :=
  (∀ (s : State) (f : List Byte), s.phase = .echo → s.frame = some f → f.length = s.config.L + s.config.S →
    exec .echo s = .next { s with tx := s.tx ++ f, frame := none, phase := .resync }) ∧
  (∀ (s : State) (f : List Byte), s.phase = .updateState → s.frame = some f → f.length = s.config.L + s.config.S →
    ∃ t, execAll [.update, .echo] s = .next t ∧ t.tx = s.tx ++ f ∧ t.tx = s.tx ++ (t.brightness ++ t.speedCode))

/-- R175: RESYNC pops one byte; the delimiter returns the phase to WAIT_FRAME and any other byte leaves it in RESYNC; with
no byte buffered it waits and nothing changes; only a delimiter or RESET leaves the phase. -/
def Obligations.ResyncDiscardsUpToTheDelimiter : Prop :=
  (∀ (s : State) (b : Byte) (rest : List Byte), s.phase = .resync → s.rx = b :: rest →
    (b = s.config.delim → exec .resync s = .next { s with rx := rest, phase := .waitFrame }) ∧
    (b ≠ s.config.delim → exec .resync s = .next { s with rx := rest })) ∧
  (∀ s : State, s.phase = .resync → s.rx = [] → exec .resync s = .next s ∧ enabled s .resync = false) ∧
  (∀ s t : State, s.phase = .resync → step s = .next t → t.phase ≠ .resync →
    nextOp s = some .reset ∨ (nextOp s = some .resync ∧ s.rx.head? = some s.config.delim ∧ t.phase = .waitFrame))

/-- R175 by byte class (R87 is [derived]): DELIM is RESYNC on a delimiter byte and SKIP is RESYNC on any other byte. -/
def Obligations.DelimAndSkipAreTheTwoResyncs : Prop :=
  (∀ (s : State) (rest : List Byte), s.phase = .resync → s.rx = s.config.delim :: rest →
    exec .delim s = .next { s with rx := rest, phase := .waitFrame } ∧ exec .delim s = exec .resync s) ∧
  (∀ (s : State) (b : Byte) (rest : List Byte), s.phase = .resync → s.rx = b :: rest → b ≠ s.config.delim →
    exec (.skip b) s = .next { s with rx := rest } ∧ exec (.skip b) s = exec .resync s)

/-- R57: on a partial frame no protocol step is enabled, and a turn of the protocol (the schedule's, or every turn once
it is exhausted) consumes no byte and changes nothing of the block. -/
def Obligations.PartialFrameIsNotActedOn : Prop :=
  ∀ s : State, s.phase = .waitFrame → s.rx.length < s.config.L + s.config.S →
    (∀ i : Instr, i = .fire ∨ i = .consume ∨ i = .update ∨ i = .echo ∨ i = .resync → enabled s i = false) ∧
    (s.schedule = [] → step s = .next s) ∧
    (∀ rest, s.schedule = .protocol :: rest → step s = .next { s with schedule := rest })

/-- R177 ([derived] from R171 to R174): the net effect of FIRE, CONSUME, UPDATE, ECHO. -/
def Obligations.ServiceTakesOneFrame : Prop :=
  ∀ (s : State) (f rest : List Byte), s.phase = .waitFrame → f.length = s.config.L + s.config.S → s.rx = f ++ rest →
    execAll [.fire, .consume, .update, .echo] s = .next { s with
      brightness := f.take s.config.L, speedCode := f.drop s.config.L, tx := s.tx ++ f, rx := rest, frame := none,
      phase := .resync }

/-- R181, R175 (spec decision D20; the source's resynchronisation scenario): left to itself (no turn scheduled, which
gives every turn to the protocol, notes/assumptions/4.md) the block takes a buffered frame, echoes it, discards every byte
up to and including the first delimiter behind it, and is back in WAIT_FRAME with what follows still buffered. -/
def Obligations.ExchangeRunsToItsDelimiter : Prop :=
  ∀ (s : State) (f junk rest : List Byte), s.schedule = [] → s.phase = .waitFrame →
    f.length = s.config.L + s.config.S → (∀ b ∈ junk, b ≠ s.config.delim) →
    s.rx = f ++ junk ++ s.config.delim :: rest →
    steps (4 + (junk.length + 1)) s = .next { s with
      brightness := f.take s.config.L, speedCode := f.drop s.config.L, tx := s.tx ++ f, rx := rest, frame := none,
      phase := .waitFrame }

/-- R202 (spec decisions D9, D20): with no delimiter among its bytes the protocol discards them one a turn and stays in
RESYNC, with no echo and no latch, for any number of turns. -/
def Obligations.MissingDelimiterStallsTheProtocol : Prop :=
  ∀ (n : Nat) (s : State), s.schedule = [] → s.phase = .resync → (∀ b ∈ s.rx, b ≠ s.config.delim) →
    steps n s = .next { s with rx := s.rx.drop n }

/-- R243 ([derived] from R171, R172, R175): from either resting state, single delimiter bytes bring the block to
WAIT_FRAME with an empty receive buffer: one from RESYNC; from WAIT_FRAME as many as complete a frame, which is latched and
echoed, and one more. -/
def Obligations.DelimitersRealignTheBlock : Prop :=
  (∀ s : State, s.config.Valid → s.phase = .resync → s.rx = [] →
    execAll [.rxpush s.config.delim, .resync] s = .next { s with phase := .waitFrame }) ∧
  (∀ s : State, s.config.Valid → s.phase = .waitFrame → s.rx.length < s.config.frameLen → ∃ t,
    execAll (List.replicate (s.config.frameLen - s.rx.length) (.rxpush s.config.delim) ++
      [.fire, .consume, .update, .echo, .rxpush s.config.delim, .resync]) s = .next t ∧
    t.phase = .waitFrame ∧ t.rx = [] ∧ t.frame = none ∧
    t.tx = s.tx ++ (s.rx ++ List.replicate (s.config.frameLen - s.rx.length) s.config.delim))

/-- R66 ([derived] from R150, R170, R171, R175): RXPUSH commutes with TICK and with every protocol micro-step enabled
before it, and TICK commutes with RESYNC where both are enabled and TICK is enabled in RESYNC. (R66 names TICK with FIRE
too; after FIRE the phase holds TICK by R65, so there is no other order to compare: notes/assumptions/6.md.) -/
def Obligations.IndependentStepsCommute : Prop :=
  (∀ (s : State) (b : Byte), enabled s (.rxpush b) = true → enabled s .tick = true →
    execAll [.rxpush b, .tick] s = execAll [.tick, .rxpush b] s) ∧
  (∀ (s : State) (b : Byte) (i : Instr), Inv s → enabled s (.rxpush b) = true →
    i = .fire ∨ i = .consume ∨ i = .update ∨ i = .echo ∨ i = .resync → enabled s i = true →
    execAll [.rxpush b, i] s = execAll [i, .rxpush b] s ∧ ∃ t, execAll [i, .rxpush b] s = .next t) ∧
  (∀ s : State, s.config.tickInResync = true → enabled s .resync = true →
    execAll [.tick, .resync] s = execAll [.resync, .tick] s)

/-- R170 to R175 (what each writes): the host's pushes and the link protocol leave position, direction, every output and
the output history, the configuration and the model's own fields as they were; only UPDATE writes the speed codes and the
brightness registers; only ECHO writes `tx`; only FIRE, CONSUME, UPDATE, ECHO and RESYNC (DELIM) write `phase`. -/
def Obligations.LinkOperationsFrame : Prop :=
  ∀ (s t : State) (i : Instr),
    i = .idle ∨ (∃ b, i = .rxpush b) ∨ i = .fire ∨ i = .consume ∨ i = .update ∨ i = .echo ∨ i = .resync ∨
      i = .delim ∨ (∃ b, i = .skip b) → exec i s = .next t →
    t.config = s.config ∧ t.position = s.position ∧ t.direction = s.direction ∧ t.out = s.out ∧
    t.servoOut = s.servoOut ∧ t.ledOut = s.ledOut ∧ t.result = s.result ∧ t.schedule = s.schedule ∧
    (i ≠ .update → t.speedCode = s.speedCode ∧ t.brightness = s.brightness) ∧
    (i ≠ .echo → t.tx = s.tx) ∧ (i ≠ .consume → i ≠ .echo → t.frame = s.frame) ∧
    (i = .fire ∨ i = .update ∨ i = .echo ∨ i = .idle → t.rx = s.rx) ∧
    (i = .idle ∨ (∃ b, i = .rxpush b) ∨ (∃ b, i = .skip b) → t.phase = s.phase)

/-- R140 to R142, R110, R120, R121 (what each writes): the operations that decode a frame or reach a port leave the link,
the outputs and the phase as they were; decoding leaves position and direction; LOOKUP and BANK.RD leave every register. -/
def Obligations.DecoderAndPortOperationsFrame : Prop :=
  (∀ (s t : State) (i : Instr), (∃ k b, i = .frameLed k b) ∨ (∃ k b, i = .frameSpd k b) ∨ (∃ raw, i = .decodeFrame raw) ∨
      (∃ c, i = .lookup c) ∨ (∃ sel n, i = .bankRd sel n) ∨ (∃ n v, i = .bankWr n v) → exec i s = .next t →
    t.config = s.config ∧ t.phase = s.phase ∧ t.frame = s.frame ∧ t.rx = s.rx ∧ t.tx = s.tx ∧ t.out = s.out ∧
    t.servoOut = s.servoOut ∧ t.ledOut = s.ledOut ∧ t.schedule = s.schedule ∧
    ((∀ n v, i ≠ .bankWr n v) → t.position = s.position ∧ t.direction = s.direction)) ∧
  (∀ (s t : State) (i : Instr), (∃ c, i = .lookup c) ∨ (∃ sel n, i = .bankRd sel n) → exec i s = .next t →
    t.position = s.position ∧ t.direction = s.direction ∧ t.speedCode = s.speedCode ∧ t.brightness = s.brightness) ∧
  (∀ (s t : State) (k : Nat) (b : Byte), exec (.frameLed k b) s = .next t → t.speedCode = s.speedCode ∧
    ∀ n, n ≠ k → t.brightness[n]? = s.brightness[n]?) ∧
  (∀ (s t : State) (k : Nat) (b : Byte), exec (.frameSpd k b) s = .next t → t.brightness = s.brightness ∧
    ∀ n, n ≠ k - s.config.L → t.speedCode[n]? = s.speedCode[n]?)

/-! ### The encoding -/

/-- R81, R83, R86 (spec decisions D10, D17), R82: for every valid operand of every operation, the decoder reads back what
the encoder wrote. -/
def Obligations.DecodeOfEncodeIsTheOperation : Prop :=
  ∀ (c : Config) (i : Instr), i.wellFormed c = true → decode c (encode c i) = .ok i

/-- R51, R82, R86, R90: what the decoder accepts is well formed, and its canonical word decodes to it again (only bits
that R90 calls ignored may differ from the word read). -/
def Obligations.DecodedOperationsAreWellFormed : Prop :=
  ∀ (c : Config) (w : OpWord) (i : Instr), decode c w = .ok i →
    i.wellFormed c = true ∧ decode c (encode c i) = .ok i ∧ (encode c i).format = w.format ∧
    (w.format = .wire ∨ w.format = .int → encode c i = w)

/-- R81, R90 (spec decision D17), as match and mask: every event word is one of the four events and `data` matters to
RXPUSH only. -/
def Obligations.EventWordsFollowMatchAndMask : Prop :=
  ∀ (c : Config) (w : EventWord),
    (w &&& 0x300#10 = 0x000#10 → decode c (.ev w) = .ok .idle) ∧
    (w &&& 0x300#10 = 0x100#10 → decode c (.ev w) = .ok (.rxpush (w.setWidth 8))) ∧
    (w &&& 0x300#10 = 0x200#10 → decode c (.ev w) = .ok .tick) ∧
    (w &&& 0x300#10 = 0x300#10 → decode c (.ev w) = .ok .reset)

/-- R81 and the event words of the programs P1 and P2, R26, R83 and R92, R86, R82 (their codes are spec decisions D10 and
D17): words written out from the encodings decode to the operations they stand for; the reserved phase codes are rejected. -/
def Obligations.WordsWrittenOutDecode : Prop :=
  decode Config.default (.ev 0b1100000000#10) = .ok .reset ∧
  decode Config.default (.ev 0b1000000000#10) = .ok .tick ∧
  decode Config.default (.ev 0b0101100100#10) = .ok (.rxpush 100) ∧
  decode Config.default (.ev 0b0000000000#10) = .ok .idle ∧
  decode Config.default (.int 0b000#3) = .ok .fire ∧
  decode Config.default (.int 0b100#3) = .ok .resync ∧
  decode Config.default (.int 0b101#3) = .error .reservedPhase ∧
  decode Config.default (.int 0b110#3) = .error .reservedPhase ∧
  decode Config.default (.int 0b111#3) = .error .reservedPhase ∧
  decode Config.default (.wireResync 0b00001101#8) = .ok .delim ∧
  decode Config.default (.wireFrame 2 0b00001101#8) = .ok (.frameLed 2 13) ∧
  decode Config.default (.wireFrame 3 0b00001101#8) = .ok (.frameSpd 3 13) ∧
  decode Config.default (.subBank 0b010#3 1 none) = .ok (.bankRd .speedCode 1) ∧
  decode Config.default (.subBank 0b111#3 2 (some (.brightness 7))) = .ok (.bankWr 2 (.brightness 7))

/-! ### The whole machine -/

/-- R10, R64: a step runs the operation that is fetched and decoded, in the state with its turn taken. An event's turn
presents its event word; a turn of the protocol, and every turn once the schedule is exhausted (the model's choice,
notes/assumptions/4.md), presents the code of the phase; a TICK that the phase holds stays due while the protocol goes
first. -/
def Obligations.StepRunsTheFetchedOperation : Prop :=
  (∀ (s : State) (i : Instr), decode s.config (fetch s).1 = .ok i → step s = exec i (fetch s).2) ∧
  (∀ (s : State) (w : EventWord) (rest : List Slot), s.schedule = .event w :: rest →
    ¬(eventKind w = 0b10#2 ∧ tickEnabled s = false) → fetch s = (.ev w, { s with schedule := rest })) ∧
  (∀ (s : State) (w : EventWord) (rest : List Slot), s.schedule = .event w :: rest → eventKind w = 0b10#2 →
    tickEnabled s = false → fetch s = (.int s.phase.code, s)) ∧
  (∀ (s : State) (rest : List Slot), s.schedule = .protocol :: rest →
    fetch s = (.int s.phase.code, { s with schedule := rest })) ∧
  (∀ s : State, s.schedule = [] → fetch s = (.int s.phase.code, s))

/-- R64 (spec decisions D9, D16): whichever step is enabled, some turn makes it the next one. -/
def Obligations.EveryEnabledStepCanBeNext : Prop :=
  ∀ (s : State) (i : Instr) (rest : List Slot), enabled s i = true →
    ∃ turn : Slot, step { s with schedule := turn :: rest } = exec i { s with schedule := rest }

/-- R64, R171, R175, R69: what a step runs is an enabled step, or a wait of the protocol that changes nothing but the turn
taken, or a push into a full buffer, which has no step. -/
def Obligations.StepRunsAnEnabledStepOrWaits : Prop :=
  ∀ s : State, ∃ i, nextOp s = some i ∧
    (enabled s i = true ∨
      ((i = .fire ∨ i = .resync) ∧ step s = .next (fetch s).2 ∧ (fetch s).2 = { s with schedule := (fetch s).2.schedule }) ∨
      (∃ b, i = .rxpush b ∧ step s = .refused .receiveOverrun))

/-- R65 (spec decision D9): a TICK due in a transient phase is not lost. In at most three steps, all of the protocol, the
machine comes to run it, with the schedule and the servos as they were. -/
def Obligations.TickDueInATransientPhaseIsNotLost : Prop :=
  ∀ (s : State) (w : EventWord) (rest : List Slot), Inv s → s.config.tickInResync = true →
    s.schedule = .event w :: rest → eventKind w = 0b10#2 →
    s.phase = .consumeFrame ∨ s.phase = .updateState ∨ s.phase = .echo →
    ∃ n t, 1 ≤ n ∧ n ≤ 3 ∧ steps n s = .next t ∧ t.schedule = s.schedule ∧ nextOp t = some .tick ∧
      t.position = s.position ∧ t.direction = s.direction ∧ t.out = s.out

/-- R37, R38: the reset state of every valid configuration meets the invariant (the reset configuration is the model's
choice, notes/assumptions/2.md). -/
def Obligations.ResetMeetsTheInvariant : Prop :=
  (∀ c : Config, c.Valid → Inv (State.resetOf c)) ∧ Inv State.reset

/-- R38 ([derived] by the spec but for (a)), R157, R69, R31: every step keeps the invariant: the arrays keep their sizes;
the frame buffer is full in UPDATE_STATE and ECHO and empty elsewhere; CONSUME_FRAME has a frame's bytes buffered; `tx` is
the banner and whole frames; `out` is whole ticks; every position is within the bounds once a TICK has run; every output
write is in range; the latches are the last writes. -/
def Obligations.StepKeepsTheInvariant : Prop :=
  ∀ s t : State, Inv s → step s = .next t → Inv t

/-- R200, R69: from a state that meets the invariant a step completes; the one thing without a step is a push into a full
receive buffer. -/
def Obligations.StepsCompleteButForAnOverrun : Prop :=
  ∀ s : State, Inv s → (∃ t, step s = .next t) ∨
    (∃ b, nextOp s = some (.rxpush b) ∧ enabled s (.rxpush b) = false ∧ step s = .refused .receiveOverrun)

/-- R58 (d), R122, R38 (e), R29, R30: which step writes which state. -/
def Obligations.EachComponentHasItsWriters : Prop :=
  ∀ s t : State, step s = .next t →
    ((t.position ≠ s.position ∨ t.direction ≠ s.direction ∨ t.out ≠ s.out ∨ t.servoOut ≠ s.servoOut ∨
      t.ledOut ≠ s.ledOut) → nextOp s = some .tick ∨ nextOp s = some .reset) ∧
    ((t.speedCode ≠ s.speedCode ∨ t.brightness ≠ s.brightness) → nextOp s = some .update ∨ nextOp s = some .reset) ∧
    (t.tx ≠ s.tx → nextOp s = some .echo ∨ nextOp s = some .reset) ∧
    (t.frame ≠ s.frame → nextOp s = some .consume ∨ nextOp s = some .echo ∨ nextOp s = some .reset) ∧
    (t.rx ≠ s.rx → (∃ b, nextOp s = some (.rxpush b)) ∨ nextOp s = some .consume ∨ nextOp s = some .resync ∨
      nextOp s = some .reset)

/-- R29, R30, R180: every step but RESET only lengthens the histories, and what it adds to `tx` is the frame. -/
def Obligations.HistoriesOnlyGrow : Prop :=
  ∀ s t : State, step s = .next t → nextOp s ≠ some .reset →
    s.out <+: t.out ∧ (t.tx = s.tx ∨ ∃ f, s.frame = some f ∧ t.tx = s.tx ++ f)

/-- R26 (spec decision D10): a step leaves `phase`, moves it to its successor in the fixed cycle, or is RESET. -/
def Obligations.PhaseFollowsTheCycle : Prop :=
  ∀ s t : State, step s = .next t →
    nextOp s = some .reset ∨ t.phase = s.phase ∨
    (s.phase = .waitFrame ∧ t.phase = .consumeFrame) ∨ (s.phase = .consumeFrame ∧ t.phase = .updateState) ∨
    (s.phase = .updateState ∧ t.phase = .echo) ∨ (s.phase = .echo ∧ t.phase = .resync) ∨
    (s.phase = .resync ∧ t.phase = .waitFrame)

/-- R36, R33, R25: the configuration, `SPEED_TABLE` in it, is no state: no operation writes it, nor the turns to come
(the model's own field, notes/assumptions/3.md). -/
def Obligations.NoOperationWritesTheConfiguration : Prop :=
  ∀ (i : Instr) (s t : State), exec i s = .next t → t.config = s.config ∧ t.schedule = s.schedule

/-- R220 (spec decision D15): a step of the host or of the link protocol does not write position or direction, so through
the link the host moves no servo; what it can set are speed codes and brightness, to the bytes of a frame it sent. -/
def Obligations.HostReachesChannelsOnlyThroughFrames : Prop :=
  ∀ s t : State, step s = .next t → nextOp s ≠ some .tick → nextOp s ≠ some .reset →
    t.position = s.position ∧ t.direction = s.direction ∧
    (t.brightness = s.brightness ∧ t.speedCode = s.speedCode ∨
      ∃ f, s.frame = some f ∧ t.brightness ++ t.speedCode = f)
end

