-- ==== Sys2Proof/Laws/Encoding.lean ====
section
/-! SUPPORT. The fields of the event word and of the bank selector read back what was written into them. -/

namespace Sys2Proof

@[simp] theorem eventKind_eventWord (k : BitVec 2) (d : Byte) : eventKind (eventWord k d) = k := by
  unfold eventKind eventWord
  ext i hi
  rw [BitVec.getElem_extractLsb', BitVec.getLsbD_append]
  simp [show ¬ 8 + i < 8 by omega, BitVec.getLsbD_eq_getElem hi]

@[simp] theorem eventData_eventWord (k : BitVec 2) (d : Byte) : eventData (eventWord k d) = d := by
  unfold eventData eventWord
  ext i hi
  rw [BitVec.getElem_extractLsb', BitVec.getLsbD_append]
  simp [hi]

@[simp] theorem bankSelOf_bankCode (w : Bool) (sel : BankSel) : bankSelOf (bankCode w sel) = sel := by
  cases w <;> cases sel <;> decide

@[simp] theorem bankIsWrite_bankCode (w : Bool) (sel : BankSel) : bankIsWrite (bankCode w sel) = w := by
  cases w <;> cases sel <;> decide

end Sys2Proof
end

