-- ==== Sys2Proof/Laws/State.lean ====
section
/-! SUPPORT. One lemma per field of the state for each named update: the update's own fields, and the fields it leaves. -/

namespace Sys2Proof.Machine

@[simp] theorem rxPush_config (s : State) (b : Byte) : (rxPush s b).config = s.config := rfl
@[simp] theorem rxPush_position (s : State) (b : Byte) : (rxPush s b).position = s.position := rfl
@[simp] theorem rxPush_direction (s : State) (b : Byte) : (rxPush s b).direction = s.direction := rfl
@[simp] theorem rxPush_speedCode (s : State) (b : Byte) : (rxPush s b).speedCode = s.speedCode := rfl
@[simp] theorem rxPush_brightness (s : State) (b : Byte) : (rxPush s b).brightness = s.brightness := rfl
@[simp] theorem rxPush_phase (s : State) (b : Byte) : (rxPush s b).phase = s.phase := rfl
@[simp] theorem rxPush_frame (s : State) (b : Byte) : (rxPush s b).frame = s.frame := rfl
@[simp] theorem rxPush_rx (s : State) (b : Byte) : (rxPush s b).rx = s.rx ++ [b] := rfl
@[simp] theorem rxPush_tx (s : State) (b : Byte) : (rxPush s b).tx = s.tx := rfl
@[simp] theorem rxPush_out (s : State) (b : Byte) : (rxPush s b).out = s.out := rfl
@[simp] theorem rxPush_servoOut (s : State) (b : Byte) : (rxPush s b).servoOut = s.servoOut := rfl
@[simp] theorem rxPush_ledOut (s : State) (b : Byte) : (rxPush s b).ledOut = s.ledOut := rfl
@[simp] theorem rxPush_result (s : State) (b : Byte) : (rxPush s b).result = s.result := rfl
@[simp] theorem rxPush_schedule (s : State) (b : Byte) : (rxPush s b).schedule = s.schedule := rfl

@[simp] theorem txWriteAll_config (s : State) (bs : List Byte) : (txWriteAll s bs).config = s.config := rfl
@[simp] theorem txWriteAll_position (s : State) (bs : List Byte) : (txWriteAll s bs).position = s.position := rfl
@[simp] theorem txWriteAll_direction (s : State) (bs : List Byte) : (txWriteAll s bs).direction = s.direction := rfl
@[simp] theorem txWriteAll_speedCode (s : State) (bs : List Byte) : (txWriteAll s bs).speedCode = s.speedCode := rfl
@[simp] theorem txWriteAll_brightness (s : State) (bs : List Byte) : (txWriteAll s bs).brightness = s.brightness := rfl
@[simp] theorem txWriteAll_phase (s : State) (bs : List Byte) : (txWriteAll s bs).phase = s.phase := rfl
@[simp] theorem txWriteAll_frame (s : State) (bs : List Byte) : (txWriteAll s bs).frame = s.frame := rfl
@[simp] theorem txWriteAll_rx (s : State) (bs : List Byte) : (txWriteAll s bs).rx = s.rx := rfl
@[simp] theorem txWriteAll_tx (s : State) (bs : List Byte) : (txWriteAll s bs).tx = s.tx ++ bs := rfl
@[simp] theorem txWriteAll_out (s : State) (bs : List Byte) : (txWriteAll s bs).out = s.out := rfl
@[simp] theorem txWriteAll_servoOut (s : State) (bs : List Byte) : (txWriteAll s bs).servoOut = s.servoOut := rfl
@[simp] theorem txWriteAll_ledOut (s : State) (bs : List Byte) : (txWriteAll s bs).ledOut = s.ledOut := rfl
@[simp] theorem txWriteAll_result (s : State) (bs : List Byte) : (txWriteAll s bs).result = s.result := rfl
@[simp] theorem txWriteAll_schedule (s : State) (bs : List Byte) : (txWriteAll s bs).schedule = s.schedule := rfl

@[simp] theorem writePosition_config (s : State) (i : Nat) (v : Int) : (writePosition s i v).config = s.config := rfl
@[simp] theorem writePosition_position (s : State) (i : Nat) (v : Int) : (writePosition s i v).position = s.position.set i v := rfl
@[simp] theorem writePosition_direction (s : State) (i : Nat) (v : Int) : (writePosition s i v).direction = s.direction := rfl
@[simp] theorem writePosition_speedCode (s : State) (i : Nat) (v : Int) : (writePosition s i v).speedCode = s.speedCode := rfl
@[simp] theorem writePosition_brightness (s : State) (i : Nat) (v : Int) : (writePosition s i v).brightness = s.brightness := rfl
@[simp] theorem writePosition_phase (s : State) (i : Nat) (v : Int) : (writePosition s i v).phase = s.phase := rfl
@[simp] theorem writePosition_frame (s : State) (i : Nat) (v : Int) : (writePosition s i v).frame = s.frame := rfl
@[simp] theorem writePosition_rx (s : State) (i : Nat) (v : Int) : (writePosition s i v).rx = s.rx := rfl
@[simp] theorem writePosition_tx (s : State) (i : Nat) (v : Int) : (writePosition s i v).tx = s.tx := rfl
@[simp] theorem writePosition_out (s : State) (i : Nat) (v : Int) : (writePosition s i v).out = s.out := rfl
@[simp] theorem writePosition_servoOut (s : State) (i : Nat) (v : Int) : (writePosition s i v).servoOut = s.servoOut := rfl
@[simp] theorem writePosition_ledOut (s : State) (i : Nat) (v : Int) : (writePosition s i v).ledOut = s.ledOut := rfl
@[simp] theorem writePosition_result (s : State) (i : Nat) (v : Int) : (writePosition s i v).result = s.result := rfl
@[simp] theorem writePosition_schedule (s : State) (i : Nat) (v : Int) : (writePosition s i v).schedule = s.schedule := rfl

@[simp] theorem writeDirection_config (s : State) (i : Nat) (v : Bool) : (writeDirection s i v).config = s.config := rfl
@[simp] theorem writeDirection_position (s : State) (i : Nat) (v : Bool) : (writeDirection s i v).position = s.position := rfl
@[simp] theorem writeDirection_direction (s : State) (i : Nat) (v : Bool) : (writeDirection s i v).direction = s.direction.set i v := rfl
@[simp] theorem writeDirection_speedCode (s : State) (i : Nat) (v : Bool) : (writeDirection s i v).speedCode = s.speedCode := rfl
@[simp] theorem writeDirection_brightness (s : State) (i : Nat) (v : Bool) : (writeDirection s i v).brightness = s.brightness := rfl
@[simp] theorem writeDirection_phase (s : State) (i : Nat) (v : Bool) : (writeDirection s i v).phase = s.phase := rfl
@[simp] theorem writeDirection_frame (s : State) (i : Nat) (v : Bool) : (writeDirection s i v).frame = s.frame := rfl
@[simp] theorem writeDirection_rx (s : State) (i : Nat) (v : Bool) : (writeDirection s i v).rx = s.rx := rfl
@[simp] theorem writeDirection_tx (s : State) (i : Nat) (v : Bool) : (writeDirection s i v).tx = s.tx := rfl
@[simp] theorem writeDirection_out (s : State) (i : Nat) (v : Bool) : (writeDirection s i v).out = s.out := rfl
@[simp] theorem writeDirection_servoOut (s : State) (i : Nat) (v : Bool) : (writeDirection s i v).servoOut = s.servoOut := rfl
@[simp] theorem writeDirection_ledOut (s : State) (i : Nat) (v : Bool) : (writeDirection s i v).ledOut = s.ledOut := rfl
@[simp] theorem writeDirection_result (s : State) (i : Nat) (v : Bool) : (writeDirection s i v).result = s.result := rfl
@[simp] theorem writeDirection_schedule (s : State) (i : Nat) (v : Bool) : (writeDirection s i v).schedule = s.schedule := rfl

@[simp] theorem writeSpeedCode_config (s : State) (i : Nat) (v : Byte) : (writeSpeedCode s i v).config = s.config := rfl
@[simp] theorem writeSpeedCode_position (s : State) (i : Nat) (v : Byte) : (writeSpeedCode s i v).position = s.position := rfl
@[simp] theorem writeSpeedCode_direction (s : State) (i : Nat) (v : Byte) : (writeSpeedCode s i v).direction = s.direction := rfl
@[simp] theorem writeSpeedCode_speedCode (s : State) (i : Nat) (v : Byte) : (writeSpeedCode s i v).speedCode = s.speedCode.set i v := rfl
@[simp] theorem writeSpeedCode_brightness (s : State) (i : Nat) (v : Byte) : (writeSpeedCode s i v).brightness = s.brightness := rfl
@[simp] theorem writeSpeedCode_phase (s : State) (i : Nat) (v : Byte) : (writeSpeedCode s i v).phase = s.phase := rfl
@[simp] theorem writeSpeedCode_frame (s : State) (i : Nat) (v : Byte) : (writeSpeedCode s i v).frame = s.frame := rfl
@[simp] theorem writeSpeedCode_rx (s : State) (i : Nat) (v : Byte) : (writeSpeedCode s i v).rx = s.rx := rfl
@[simp] theorem writeSpeedCode_tx (s : State) (i : Nat) (v : Byte) : (writeSpeedCode s i v).tx = s.tx := rfl
@[simp] theorem writeSpeedCode_out (s : State) (i : Nat) (v : Byte) : (writeSpeedCode s i v).out = s.out := rfl
@[simp] theorem writeSpeedCode_servoOut (s : State) (i : Nat) (v : Byte) : (writeSpeedCode s i v).servoOut = s.servoOut := rfl
@[simp] theorem writeSpeedCode_ledOut (s : State) (i : Nat) (v : Byte) : (writeSpeedCode s i v).ledOut = s.ledOut := rfl
@[simp] theorem writeSpeedCode_result (s : State) (i : Nat) (v : Byte) : (writeSpeedCode s i v).result = s.result := rfl
@[simp] theorem writeSpeedCode_schedule (s : State) (i : Nat) (v : Byte) : (writeSpeedCode s i v).schedule = s.schedule := rfl

@[simp] theorem writeBrightness_config (s : State) (j : Nat) (v : Byte) : (writeBrightness s j v).config = s.config := rfl
@[simp] theorem writeBrightness_position (s : State) (j : Nat) (v : Byte) : (writeBrightness s j v).position = s.position := rfl
@[simp] theorem writeBrightness_direction (s : State) (j : Nat) (v : Byte) : (writeBrightness s j v).direction = s.direction := rfl
@[simp] theorem writeBrightness_speedCode (s : State) (j : Nat) (v : Byte) : (writeBrightness s j v).speedCode = s.speedCode := rfl
@[simp] theorem writeBrightness_brightness (s : State) (j : Nat) (v : Byte) : (writeBrightness s j v).brightness = s.brightness.set j v := rfl
@[simp] theorem writeBrightness_phase (s : State) (j : Nat) (v : Byte) : (writeBrightness s j v).phase = s.phase := rfl
@[simp] theorem writeBrightness_frame (s : State) (j : Nat) (v : Byte) : (writeBrightness s j v).frame = s.frame := rfl
@[simp] theorem writeBrightness_rx (s : State) (j : Nat) (v : Byte) : (writeBrightness s j v).rx = s.rx := rfl
@[simp] theorem writeBrightness_tx (s : State) (j : Nat) (v : Byte) : (writeBrightness s j v).tx = s.tx := rfl
@[simp] theorem writeBrightness_out (s : State) (j : Nat) (v : Byte) : (writeBrightness s j v).out = s.out := rfl
@[simp] theorem writeBrightness_servoOut (s : State) (j : Nat) (v : Byte) : (writeBrightness s j v).servoOut = s.servoOut := rfl
@[simp] theorem writeBrightness_ledOut (s : State) (j : Nat) (v : Byte) : (writeBrightness s j v).ledOut = s.ledOut := rfl
@[simp] theorem writeBrightness_result (s : State) (j : Nat) (v : Byte) : (writeBrightness s j v).result = s.result := rfl
@[simp] theorem writeBrightness_schedule (s : State) (j : Nat) (v : Byte) : (writeBrightness s j v).schedule = s.schedule := rfl

@[simp] theorem servoWrite_config (s : State) (i : Nat) (v : Int) : (servoWrite s i v).config = s.config := rfl
@[simp] theorem servoWrite_position (s : State) (i : Nat) (v : Int) : (servoWrite s i v).position = s.position := rfl
@[simp] theorem servoWrite_direction (s : State) (i : Nat) (v : Int) : (servoWrite s i v).direction = s.direction := rfl
@[simp] theorem servoWrite_speedCode (s : State) (i : Nat) (v : Int) : (servoWrite s i v).speedCode = s.speedCode := rfl
@[simp] theorem servoWrite_brightness (s : State) (i : Nat) (v : Int) : (servoWrite s i v).brightness = s.brightness := rfl
@[simp] theorem servoWrite_phase (s : State) (i : Nat) (v : Int) : (servoWrite s i v).phase = s.phase := rfl
@[simp] theorem servoWrite_frame (s : State) (i : Nat) (v : Int) : (servoWrite s i v).frame = s.frame := rfl
@[simp] theorem servoWrite_rx (s : State) (i : Nat) (v : Int) : (servoWrite s i v).rx = s.rx := rfl
@[simp] theorem servoWrite_tx (s : State) (i : Nat) (v : Int) : (servoWrite s i v).tx = s.tx := rfl
@[simp] theorem servoWrite_out (s : State) (i : Nat) (v : Int) : (servoWrite s i v).out = s.out ++ [.servo i v] := rfl
@[simp] theorem servoWrite_servoOut (s : State) (i : Nat) (v : Int) : (servoWrite s i v).servoOut = s.servoOut.set i (some v) := rfl
@[simp] theorem servoWrite_ledOut (s : State) (i : Nat) (v : Int) : (servoWrite s i v).ledOut = s.ledOut := rfl
@[simp] theorem servoWrite_result (s : State) (i : Nat) (v : Int) : (servoWrite s i v).result = s.result := rfl
@[simp] theorem servoWrite_schedule (s : State) (i : Nat) (v : Int) : (servoWrite s i v).schedule = s.schedule := rfl

@[simp] theorem pwmWrite_config (s : State) (j : Nat) (v : Byte) : (pwmWrite s j v).config = s.config := rfl
@[simp] theorem pwmWrite_position (s : State) (j : Nat) (v : Byte) : (pwmWrite s j v).position = s.position := rfl
@[simp] theorem pwmWrite_direction (s : State) (j : Nat) (v : Byte) : (pwmWrite s j v).direction = s.direction := rfl
@[simp] theorem pwmWrite_speedCode (s : State) (j : Nat) (v : Byte) : (pwmWrite s j v).speedCode = s.speedCode := rfl
@[simp] theorem pwmWrite_brightness (s : State) (j : Nat) (v : Byte) : (pwmWrite s j v).brightness = s.brightness := rfl
@[simp] theorem pwmWrite_phase (s : State) (j : Nat) (v : Byte) : (pwmWrite s j v).phase = s.phase := rfl
@[simp] theorem pwmWrite_frame (s : State) (j : Nat) (v : Byte) : (pwmWrite s j v).frame = s.frame := rfl
@[simp] theorem pwmWrite_rx (s : State) (j : Nat) (v : Byte) : (pwmWrite s j v).rx = s.rx := rfl
@[simp] theorem pwmWrite_tx (s : State) (j : Nat) (v : Byte) : (pwmWrite s j v).tx = s.tx := rfl
@[simp] theorem pwmWrite_out (s : State) (j : Nat) (v : Byte) : (pwmWrite s j v).out = s.out ++ [.pwm j v] := rfl
@[simp] theorem pwmWrite_servoOut (s : State) (j : Nat) (v : Byte) : (pwmWrite s j v).servoOut = s.servoOut := rfl
@[simp] theorem pwmWrite_ledOut (s : State) (j : Nat) (v : Byte) : (pwmWrite s j v).ledOut = s.ledOut.set j (some v) := rfl
@[simp] theorem pwmWrite_result (s : State) (j : Nat) (v : Byte) : (pwmWrite s j v).result = s.result := rfl
@[simp] theorem pwmWrite_schedule (s : State) (j : Nat) (v : Byte) : (pwmWrite s j v).schedule = s.schedule := rfl

@[simp] theorem setPhase_config (s : State) (p : Phase) : (setPhase s p).config = s.config := rfl
@[simp] theorem setPhase_position (s : State) (p : Phase) : (setPhase s p).position = s.position := rfl
@[simp] theorem setPhase_direction (s : State) (p : Phase) : (setPhase s p).direction = s.direction := rfl
@[simp] theorem setPhase_speedCode (s : State) (p : Phase) : (setPhase s p).speedCode = s.speedCode := rfl
@[simp] theorem setPhase_brightness (s : State) (p : Phase) : (setPhase s p).brightness = s.brightness := rfl
@[simp] theorem setPhase_phase (s : State) (p : Phase) : (setPhase s p).phase = p := rfl
@[simp] theorem setPhase_frame (s : State) (p : Phase) : (setPhase s p).frame = s.frame := rfl
@[simp] theorem setPhase_rx (s : State) (p : Phase) : (setPhase s p).rx = s.rx := rfl
@[simp] theorem setPhase_tx (s : State) (p : Phase) : (setPhase s p).tx = s.tx := rfl
@[simp] theorem setPhase_out (s : State) (p : Phase) : (setPhase s p).out = s.out := rfl
@[simp] theorem setPhase_servoOut (s : State) (p : Phase) : (setPhase s p).servoOut = s.servoOut := rfl
@[simp] theorem setPhase_ledOut (s : State) (p : Phase) : (setPhase s p).ledOut = s.ledOut := rfl
@[simp] theorem setPhase_result (s : State) (p : Phase) : (setPhase s p).result = s.result := rfl
@[simp] theorem setPhase_schedule (s : State) (p : Phase) : (setPhase s p).schedule = s.schedule := rfl

@[simp] theorem splitFrame_config (raw : List Byte) (s : State) : (splitFrame raw s).config = s.config := rfl
@[simp] theorem splitFrame_position (raw : List Byte) (s : State) : (splitFrame raw s).position = s.position := rfl
@[simp] theorem splitFrame_direction (raw : List Byte) (s : State) : (splitFrame raw s).direction = s.direction := rfl
@[simp] theorem splitFrame_speedCode (raw : List Byte) (s : State) : (splitFrame raw s).speedCode = raw.drop s.config.L := rfl
@[simp] theorem splitFrame_brightness (raw : List Byte) (s : State) : (splitFrame raw s).brightness = raw.take s.config.L := rfl
@[simp] theorem splitFrame_phase (raw : List Byte) (s : State) : (splitFrame raw s).phase = s.phase := rfl
@[simp] theorem splitFrame_frame (raw : List Byte) (s : State) : (splitFrame raw s).frame = s.frame := rfl
@[simp] theorem splitFrame_rx (raw : List Byte) (s : State) : (splitFrame raw s).rx = s.rx := rfl
@[simp] theorem splitFrame_tx (raw : List Byte) (s : State) : (splitFrame raw s).tx = s.tx := rfl
@[simp] theorem splitFrame_out (raw : List Byte) (s : State) : (splitFrame raw s).out = s.out := rfl
@[simp] theorem splitFrame_servoOut (raw : List Byte) (s : State) : (splitFrame raw s).servoOut = s.servoOut := rfl
@[simp] theorem splitFrame_ledOut (raw : List Byte) (s : State) : (splitFrame raw s).ledOut = s.ledOut := rfl
@[simp] theorem splitFrame_result (raw : List Byte) (s : State) : (splitFrame raw s).result = s.result := rfl
@[simp] theorem splitFrame_schedule (raw : List Byte) (s : State) : (splitFrame raw s).schedule = s.schedule := rfl

@[simp] theorem resetAll_config (s : State) : (resetAll s).config = s.config := rfl
@[simp] theorem resetAll_position (s : State) : (resetAll s).position = List.replicate s.config.S 0 := rfl
@[simp] theorem resetAll_direction (s : State) : (resetAll s).direction = List.replicate s.config.S false := rfl
@[simp] theorem resetAll_speedCode (s : State) : (resetAll s).speedCode = List.replicate s.config.S 0 := rfl
@[simp] theorem resetAll_brightness (s : State) : (resetAll s).brightness = s.config.brightReset := rfl
@[simp] theorem resetAll_phase (s : State) : (resetAll s).phase = .waitFrame := rfl
@[simp] theorem resetAll_frame (s : State) : (resetAll s).frame = none := rfl
@[simp] theorem resetAll_rx (s : State) : (resetAll s).rx = [] := rfl
@[simp] theorem resetAll_tx (s : State) : (resetAll s).tx = s.config.banner := rfl
@[simp] theorem resetAll_out (s : State) : (resetAll s).out = [] := rfl
@[simp] theorem resetAll_servoOut (s : State) : (resetAll s).servoOut = List.replicate s.config.S none := rfl
@[simp] theorem resetAll_ledOut (s : State) : (resetAll s).ledOut = List.replicate s.config.L none := rfl
@[simp] theorem resetAll_result (s : State) : (resetAll s).result = none := rfl
@[simp] theorem resetAll_schedule (s : State) : (resetAll s).schedule = s.schedule := rfl

end Sys2Proof.Machine
end

