-- ==== Sys2Proof/Laws/Ops.lean ====
section
/-! SUPPORT. What each shared operation can do, said once: sequencing, the loops of a TICK, the guards of the micro-steps,
the link's primitives, the table and the fetch. -/

namespace Sys2Proof.Machine

/-! ### Sequencing -/

@[simp] theorem andThen_next (s : State) (k : State → StepResult) : andThen (.next s) k = k s := rfl
@[simp] theorem andThen_fault (f : Fault) (k : State → StepResult) : andThen (.fault f) k = .fault f := rfl
@[simp] theorem andThen_refused (f : Refusal) (k : State → StepResult) : andThen (.refused f) k = .refused f := rfl

theorem andThen_eq_next {r : StepResult} {k : State → StepResult} {t : State} :
    andThen r k = .next t ↔ ∃ s, r = .next s ∧ k s = .next t := by
  cases r <;> simp [andThen]

theorem andThen_assoc (r : StepResult) (k l : State → StepResult) :
    andThen (andThen r k) l = andThen r (fun s => andThen (k s) l) := by
  cases r <;> rfl

@[simp] theorem forEach_nil (body : Nat → State → StepResult) (s : State) : forEach body [] s = .next s := rfl

@[simp] theorem forEach_cons (body : Nat → State → StepResult) (n : Nat) (ns : List Nat) (s : State) :
    forEach body (n :: ns) s = andThen (body n s) (forEach body ns) := rfl

theorem forEach_append (body : Nat → State → StepResult) (xs ys : List Nat) (s : State) :
    forEach body (xs ++ ys) s = andThen (forEach body xs s) (forEach body ys) := by
  induction xs generalizing s with
  | nil => rfl
  | cons n ns ih => simp [andThen_assoc, show forEach body (ns ++ ys) = _ from funext ih]

/-- What every turn of a loop keeps, the whole loop keeps. -/
theorem forEach_keeps {P : State → Prop} {body : Nat → State → StepResult} {ns : List Nat} {s t : State}
    (keep : ∀ n ∈ ns, ∀ s t, P s → body n s = .next t → P t) (hs : P s) (h : forEach body ns s = .next t) : P t := by
  induction ns generalizing s with
  | nil => cases h; exact hs
  | cons n ns ih =>
    obtain ⟨u, hu, ht⟩ := andThen_eq_next.1 h
    exact ih (fun m hm => keep m (by simp [hm])) (keep n (by simp) s u hs hu) ht

@[simp] theorem execAll_nil (s : State) : execAll [] s = .next s := rfl

@[simp] theorem execAll_cons (i : Instr) (is : List Instr) (s : State) :
    execAll (i :: is) s = andThen (exec i s) (execAll is) := rfl

theorem execAll_append (xs ys : List Instr) (s : State) :
    execAll (xs ++ ys) s = andThen (execAll xs s) (execAll ys) := by
  induction xs generalizing s with
  | nil => rfl
  | cons i is ih => simp [andThen_assoc, show execAll (is ++ ys) = _ from funext ih]

@[simp] theorem steps_zero (s : State) : steps 0 s = .next s := rfl

@[simp] theorem steps_succ (n : Nat) (s : State) : steps (n + 1) s = andThen (step s) (steps n) := rfl

theorem steps_add (m n : Nat) (s : State) : steps (m + n) s = andThen (steps m s) (steps n) := by
  induction m generalizing s with
  | zero => simp
  | succ m ih => rw [Nat.succ_add]; simp [andThen_assoc, show steps (m + n) = _ from funext ih]

/-! ### The stepper -/

/-- SERVO_STEP completes exactly where its channel's three registers exist, with this state. -/
theorem servoStep_eq {s : State} {i : Nat} {pos : Int} {dir : Bool} {code : Byte}
    (hp : s.position[i]? = some pos) (hd : s.direction[i]? = some dir) (hc : s.speedCode[i]? = some code) :
    servoStep i s = .next { s with
      position := s.position.set i (reflect s.config dir (movedPosition dir pos (tableEntry s.config code))).1
      direction := s.direction.set i (reflect s.config dir (movedPosition dir pos (tableEntry s.config code))).2
      out := s.out ++ [.servo i (reflect s.config dir (movedPosition dir pos (tableEntry s.config code))).1]
      servoOut := s.servoOut.set i (some (reflect s.config dir (movedPosition dir pos (tableEntry s.config code))).1) } := by
  simp [servoStep, readPosition, readDirection, readSpeedCode, hp, hd, hc, servoWrite, writePosition, writeDirection]

theorem servoStep_next {s t : State} {i : Nat} (h : servoStep i s = .next t) :
    ∃ pos dir code, s.position[i]? = some pos ∧ s.direction[i]? = some dir ∧ s.speedCode[i]? = some code := by
  revert h
  cases hp : s.position[i]? <;> cases hd : s.direction[i]? <;> cases hc : s.speedCode[i]? <;>
    simp [servoStep, readPosition, readDirection, readSpeedCode, hp, hd, hc]

/-- LED_EMIT completes exactly where its channel's register exists, with this state. -/
theorem ledEmit_eq {s : State} {j : Nat} {v : Byte} (h : s.brightness[j]? = some v) :
    ledEmit j s = .next { s with out := s.out ++ [.pwm j v], ledOut := s.ledOut.set j (some v) } := by
  simp [ledEmit, readBrightness, h, pwmWrite]

theorem ledEmit_next {s t : State} {j : Nat} (h : ledEmit j s = .next t) : ∃ v, s.brightness[j]? = some v := by
  revert h
  cases hb : s.brightness[j]? <;> simp [ledEmit, readBrightness, hb]

@[simp] theorem movedPosition_inc (p : Int) (n : Nat) : movedPosition INC p n = p + n := rfl
@[simp] theorem movedPosition_dec (p : Int) (n : Nat) : movedPosition DEC p n = p - n := rfl

theorem reflect_low {c : Config} {p : Int} (dir : Bool) (h : p ≤ c.minPos) : reflect c dir p = (c.minPos, !dir) := by
  simp [reflect, h]

theorem reflect_high {c : Config} {p : Int} (dir : Bool) (l : c.minPos < p) (h : c.maxPos ≤ p) :
    reflect c dir p = (c.maxPos, !dir) := by
  simp [reflect, h, not_le.2 l]

theorem reflect_between {c : Config} {p : Int} (dir : Bool) (l : c.minPos < p) (h : p < c.maxPos) :
    reflect c dir p = (p, dir) := by
  simp [reflect, not_le.2 l, not_le.2 h]

/-- The boundary reflection's answer is within the bounds. -/
theorem reflect_within {c : Config} (dir : Bool) (p : Int) (h : c.minPos < c.maxPos) :
    c.minPos ≤ (reflect c dir p).1 ∧ (reflect c dir p).1 ≤ c.maxPos := by
  unfold reflect
  split
  · simp; omega
  · split <;> simp <;> omega

/-! ### The link -/

theorem rxPopMany_eq (n : Nat) (s : State) :
    rxPopMany n s = if n ≤ s.rx.length then some (s.rx.take n, { s with rx := s.rx.drop n }) else none := rfl

/-- Popping `n + 1` bytes at once is popping one byte and then `n` (R172: `L + S` pops). -/
theorem rxPopMany_succ (n : Nat) (s : State) :
    rxPopMany (n + 1) s =
      (rxPop s).bind fun r => (rxPopMany n r.2).map fun q => (r.1 :: q.1, q.2) := by
  cases h : s.rx with
  | nil => simp [rxPopMany, rxPop, rxAvail, h]
  | cons b rest =>
    by_cases hn : n ≤ rest.length <;> simp [rxPopMany, rxPop, rxAvail, h, hn]

/-- Writing a list of bytes is writing its first byte and then the rest (R174: one TxWrite a byte). -/
theorem txWriteAll_cons (s : State) (b : Byte) (bs : List Byte) :
    txWriteAll s (b :: bs) = txWriteAll (txWriteAll s [b]) bs := by
  simp [txWriteAll]

theorem inPhase_of_eq {p : Phase} {s : State} (k : State → StepResult) (h : s.phase = p) : inPhase p s k = k s := by
  simp [inPhase, h]

theorem inPhase_next {p : Phase} {s t : State} {k : State → StepResult} (h : inPhase p s k = .next t) :
    s.phase = p ∧ k s = .next t := by
  unfold inPhase at h
  split at h
  · exact ⟨‹_›, h⟩
  · cases h

theorem withFrame_of_eq {s : State} {f : List Byte} (k : List Byte → StepResult) (h : s.frame = some f)
    (hl : f.length = s.config.frameLen) : withFrame s k = k f := by
  simp [withFrame, h, hl]

theorem withFrame_next {s t : State} {k : List Byte → StepResult} (h : withFrame s k = .next t) :
    ∃ f, s.frame = some f ∧ f.length = s.config.frameLen ∧ k f = .next t := by
  unfold withFrame at h
  split at h
  · cases h
  · rename_i f hf
    split at h
    · exact ⟨f, hf, ‹_›, h⟩
    · cases h

theorem rxHasRoom_iff (s : State) :
    rxHasRoom s = true ↔ ∀ cap ∈ s.config.rxCap.toList, s.rx.length < cap := by
  unfold rxHasRoom rxAvail
  cases s.config.rxCap <;> simp

/-! ### The table -/

theorem tableEntry_mem (c : Config) (code : Byte) : tableEntry c code ∈ c.speedTable.toList := by
  simp [tableEntry]

theorem le_foldl_max (l : List Nat) (a : Nat) : a ≤ l.foldl max a := by
  induction l generalizing a with
  | nil => simp
  | cons b l ih => exact le_trans (le_max_left a b) (ih _)

theorem mem_le_foldl_max {l : List Nat} {n : Nat} (a : Nat) (h : n ∈ l) : n ≤ l.foldl max a := by
  induction l generalizing a with
  | nil => cases h
  | cons b l ih =>
    rcases List.mem_cons.1 h with rfl | h
    · exact le_trans (le_max_right a n) (le_foldl_max l _)
    · exact ih _ h

/-- No entry of the table exceeds DELTA_MAX (R113 (d)). -/
theorem tableEntry_le_deltaMax (c : Config) (code : Byte) : tableEntry c code ≤ c.deltaMax :=
  mem_le_foldl_max 0 (tableEntry_mem c code)

/-! ### Fetching -/

theorem fetch_nil {s : State} (h : s.schedule = []) : fetch s = (.int s.phase.code, s) := by
  simp [fetch, h]

theorem fetch_protocol {s : State} {rest : List Slot} (h : s.schedule = .protocol :: rest) :
    fetch s = (.int s.phase.code, { s with schedule := rest }) := by
  simp [fetch, h]

theorem fetch_event {s : State} {w : EventWord} {rest : List Slot} (h : s.schedule = .event w :: rest)
    (run : isTickWord w = false ∨ tickEnabled s = true) : fetch s = (.ev w, { s with schedule := rest }) := by
  rcases run with run | run <;> simp [fetch, h, run]

theorem fetch_held {s : State} {w : EventWord} {rest : List Slot} (h : s.schedule = .event w :: rest)
    (tick : isTickWord w = true) (held : tickEnabled s = false) : fetch s = (.int s.phase.code, s) := by
  simp [fetch, h, tick, held]

/-- A fetch takes a turn from the schedule and touches nothing else. -/
theorem fetch_snd (s : State) : (fetch s).2 = { s with schedule := (fetch s).2.schedule } := by
  unfold fetch
  split
  · rfl
  · rfl
  · split <;> rfl

/-- What is fetched is an event word or the code of the present phase. -/
theorem fetch_fst (s : State) : (∃ w, (fetch s).1 = .ev w) ∨ (fetch s).1 = .int s.phase.code := by
  unfold fetch
  split
  · exact .inr rfl
  · exact .inr rfl
  · split
    · exact .inr rfl
    · exact .inl ⟨_, rfl⟩

/-- The micro-step that each phase selects (R83). -/
def Phase.microStep : Phase → Instr
  | .waitFrame => .fire
  | .consumeFrame => .consume
  | .updateState => .update
  | .echo => .echo
  | .resync => .resync

theorem decodePhase_code (p : Phase) : decodePhase p.code = .ok p.microStep := by
  cases p <;> rfl

/-- The decoder never rejects what is fetched. -/
theorem decode_fetch (s : State) : ∃ i, decode s.config (fetch s).1 = .ok i := by
  rcases fetch_fst s with ⟨w, h⟩ | h
  · exact ⟨_, by rw [h]; rfl⟩
  · exact ⟨_, by rw [h]; exact decodePhase_code _⟩

theorem step_of_decode {s : State} {i : Instr} (h : decode s.config (fetch s).1 = .ok i) :
    step s = exec i (fetch s).2 := by
  simp [step, h]

end Sys2Proof.Machine
end

