-- ==== Sys2Proof/Laws/PerInstr.lean ====
section
/-! SUPPORT. The family `EncodedFormat`: every operation is encoded in the format of its row in the opcode table (R84). -/

namespace Sys2Proof.Laws.EncodedFormat

/-- The operation's word is of the format that its row of the table names, under every configuration. -/
def Statement (i : Instr) : Prop := ∀ c : Config, (encode c i).format = i.format

theorem idle : Statement .idle := fun _ => rfl
theorem rxpush (b : Byte) : Statement (.rxpush b) := fun _ => rfl
theorem tick : Statement .tick := fun _ => rfl
theorem reset : Statement .reset := fun _ => rfl
theorem fire : Statement .fire := fun _ => rfl
theorem consume : Statement .consume := fun _ => rfl
theorem update : Statement .update := fun _ => rfl
theorem echo : Statement .echo := fun _ => rfl
theorem resync : Statement .resync := fun _ => rfl
theorem frameLed (k : Nat) (b : Byte) : Statement (.frameLed k b) := fun _ => rfl
theorem frameSpd (k : Nat) (b : Byte) : Statement (.frameSpd k b) := fun _ => rfl
theorem delim : Statement .delim := fun _ => rfl
theorem skip (b : Byte) : Statement (.skip b) := fun _ => rfl
theorem lookup (c : Byte) : Statement (.lookup c) := fun _ => rfl
theorem servoStep (i : Nat) : Statement (.servoStep i) := fun _ => rfl
theorem ledEmit (j : Nat) : Statement (.ledEmit j) := fun _ => rfl
theorem decodeFrame (raw : List Byte) : Statement (.decodeFrame raw) := fun _ => rfl
theorem bankRd (sel : BankSel) (n : Nat) : Statement (.bankRd sel n) := fun _ => rfl
theorem bankWr (n : Nat) (v : BankValue) : Statement (.bankWr n v) := fun _ => rfl

end Sys2Proof.Laws.EncodedFormat
end

