-- ==== Sys2Proof/Laws/Stepper.lean ====
section
/-! SUPPORT. What a TICK's two loops do when every array has its size, in closed form: each channel's new position and
direction are computed from that channel alone. -/

namespace Sys2Proof.Machine

/-- The new position and direction of servo channel `i` (R151), from the registers of that channel. -/
def servoAfter (s : State) (i : Nat) : Int × Bool :=
  reflect s.config (s.direction.getD i INC)
    (movedPosition (s.direction.getD i INC) (s.position.getD i 0) (tableEntry s.config (s.speedCode.getD i 0)))

theorem set_map_range_append_drop {α : Type} (f : Nat → α) (l : List α) {n : Nat} (h : n < l.length) :
    ((List.range n).map f ++ l.drop n).set n (f n) = (List.range (n + 1)).map f ++ l.drop (n + 1) := by
  rw [List.set_append_right _ _ (by simp), List.drop_eq_getElem_cons h]
  simp only [List.length_map, List.length_range, Nat.sub_self, List.set_cons_zero, List.range_succ, List.map_append,
    List.map_cons, List.map_nil, List.append_assoc, List.cons_append, List.nil_append]

theorem getElem?_map_range_append_drop {α : Type} (f : Nat → α) (l : List α) (n : Nat) :
    ((List.range n).map f ++ l.drop n)[n]? = l[n]? := by
  rw [List.getElem?_append_right (by simp)]
  simp

/-- The servo loop of a TICK over the first `n` channels. -/
theorem servoLoop_eq {s : State} (hp : s.position.length = s.config.S) (hd : s.direction.length = s.config.S)
    (hc : s.speedCode.length = s.config.S) (ho : s.servoOut.length = s.config.S) (n : Nat) (hn : n ≤ s.config.S) :
    forEach servoStep (List.range n) s = .next { s with
      position := (List.range n).map (fun i => (servoAfter s i).1) ++ s.position.drop n
      direction := (List.range n).map (fun i => (servoAfter s i).2) ++ s.direction.drop n
      out := s.out ++ (List.range n).map (fun i => .servo i (servoAfter s i).1)
      servoOut := (List.range n).map (fun i => some (servoAfter s i).1) ++ s.servoOut.drop n } := by
  induction n with
  | zero => simp
  | succ n ih =>
    have p1 : s.position[n]? = some (s.position.getD n 0) := by
      rw [List.getD_eq_getElem _ _ (by omega), List.getElem?_eq_getElem]
    have p2 : s.direction[n]? = some (s.direction.getD n INC) := by
      rw [List.getD_eq_getElem _ _ (by omega), List.getElem?_eq_getElem]
    have p3 : s.speedCode[n]? = some (s.speedCode.getD n 0) := by
      rw [List.getD_eq_getElem _ _ (by omega), List.getElem?_eq_getElem]
    rw [List.range_succ, forEach_append, ih (by omega), andThen_next, forEach_cons, ← List.range_succ]
    rw [servoStep_eq (pos := s.position.getD n 0) (dir := s.direction.getD n INC) (code := s.speedCode.getD n 0)
      (by simpa [getElem?_map_range_append_drop] using p1) (by simpa [getElem?_map_range_append_drop] using p2)
      (by simpa using p3)]
    have e1 := set_map_range_append_drop (fun i => (servoAfter s i).1) s.position (n := n) (by omega)
    have e2 := set_map_range_append_drop (fun i => (servoAfter s i).2) s.direction (n := n) (by omega)
    have e3 := set_map_range_append_drop (fun i => some (servoAfter s i).1) s.servoOut (n := n) (by omega)
    simp only [andThen_next, forEach_nil, ← e1, ← e2, ← e3]
    simp [servoAfter, List.range_succ]

/-- The LED loop of a TICK over the first `n` channels. -/
theorem ledLoop_eq {s : State} (hb : s.brightness.length = s.config.L) (ho : s.ledOut.length = s.config.L)
    (n : Nat) (hn : n ≤ s.config.L) :
    forEach ledEmit (List.range n) s = .next { s with
      out := s.out ++ (List.range n).map (fun j => .pwm j (s.brightness.getD j 0))
      ledOut := (List.range n).map (fun j => some (s.brightness.getD j 0)) ++ s.ledOut.drop n } := by
  induction n with
  | zero => simp
  | succ n ih =>
    have p1 : s.brightness[n]? = some (s.brightness.getD n 0) := by
      rw [List.getD_eq_getElem _ _ (by omega), List.getElem?_eq_getElem]
    rw [List.range_succ, forEach_append, ih (by omega), andThen_next, forEach_cons, ← List.range_succ]
    rw [ledEmit_eq (v := s.brightness.getD n 0) (by simpa using p1)]
    have e3 := set_map_range_append_drop (fun j => some (s.brightness.getD j 0)) s.ledOut (n := n) (by omega)
    simp only [andThen_next, forEach_nil, ← e3]
    simp [List.range_succ]

/-- The two loops of a TICK in closed form. -/
theorem tickLoops_eq {s : State} (h : ArraysSized s) :
    andThen (forEach servoStep (List.range s.config.S) s) (forEach ledEmit (List.range s.config.L)) = .next { s with
      position := (List.range s.config.S).map fun i => (servoAfter s i).1
      direction := (List.range s.config.S).map fun i => (servoAfter s i).2
      out := s.out ++ (List.range s.config.S).map (fun i => .servo i (servoAfter s i).1) ++
        (List.range s.config.L).map (fun j => .pwm j (s.brightness.getD j 0))
      servoOut := (List.range s.config.S).map fun i => some (servoAfter s i).1
      ledOut := (List.range s.config.L).map fun j => some (s.brightness.getD j 0) } := by
  obtain ⟨hp, hd, hc, hb, hs, hl⟩ := h
  rw [servoLoop_eq hp hd hc hs _ (le_refl _), andThen_next, ledLoop_eq (by simpa using hb) (by simpa using hl) _ (by simp)]
  simp [List.drop_of_length_le, hp, hd, hs, hl]

end Sys2Proof.Machine
end

