-- ==== Sys2Proof/Laws/Step.lean ====
section
/-! SUPPORT. Inversion, said once: what a completed micro-step, port access or step of the machine can have done. -/

namespace Sys2Proof.Machine

/-! ### The link's operations -/

theorem execRxpush_next {b : Byte} {s t : State} (h : execRxpush b s = .next t) :
    rxHasRoom s = true ∧ t = { s with rx := s.rx ++ [b] } := by
  unfold execRxpush at h
  split at h
  · cases h; exact ⟨‹_›, rfl⟩
  · cases h

theorem execFire_next {s t : State} (h : execFire s = .next t) :
    s.phase = .waitFrame ∧
      ((s.config.frameLen ≤ s.rx.length ∧ t = { s with phase := .consumeFrame }) ∨
       (s.rx.length < s.config.frameLen ∧ t = s)) := by
  obtain ⟨hp, h⟩ := inPhase_next h
  refine ⟨hp, ?_⟩
  split at h <;> cases h
  · exact .inl ⟨‹_›, rfl⟩
  · exact .inr ⟨Nat.lt_of_not_le ‹_›, rfl⟩

theorem execConsume_next {s t : State} (h : execConsume s = .next t) :
    s.phase = .consumeFrame ∧ s.config.frameLen ≤ s.rx.length ∧
      t = { s with rx := s.rx.drop s.config.frameLen, frame := some (s.rx.take s.config.frameLen), phase := .updateState } := by
  obtain ⟨hp, h⟩ := inPhase_next h
  rw [rxPopMany_eq] at h
  split_ifs at h with hl
  cases h
  exact ⟨hp, hl, rfl⟩

theorem execDecodeFrame_next {raw : List Byte} {s t : State} (h : execDecodeFrame raw s = .next t) :
    raw.length = s.config.frameLen ∧ t = splitFrame raw s := by
  unfold execDecodeFrame at h
  split at h
  · cases h; exact ⟨‹_›, rfl⟩
  · cases h

theorem execUpdate_next {s t : State} (h : execUpdate s = .next t) :
    s.phase = .updateState ∧ ∃ f, s.frame = some f ∧ f.length = s.config.frameLen ∧
      t = { s with brightness := f.take s.config.L, speedCode := f.drop s.config.L, phase := .echo } := by
  obtain ⟨hp, h⟩ := inPhase_next h
  obtain ⟨f, hf, hl, h⟩ := withFrame_next h
  obtain ⟨u, hu, h⟩ := andThen_eq_next.1 h
  obtain ⟨-, rfl⟩ := execDecodeFrame_next hu
  cases h
  exact ⟨hp, f, hf, hl, rfl⟩

theorem execEcho_next {s t : State} (h : execEcho s = .next t) :
    s.phase = .echo ∧ ∃ f, s.frame = some f ∧ f.length = s.config.frameLen ∧
      t = { s with tx := s.tx ++ f, frame := none, phase := .resync } := by
  obtain ⟨hp, h⟩ := inPhase_next h
  obtain ⟨f, hf, hl, h⟩ := withFrame_next h
  cases h
  exact ⟨hp, f, hf, hl, rfl⟩

theorem resyncByte_eq (b : Byte) (s : State) :
    resyncByte b s = { s with phase := if b = s.config.delim then .waitFrame else .resync } := by
  unfold resyncByte
  split <;> rfl

theorem execResync_next {s t : State} (h : execResync s = .next t) :
    s.phase = .resync ∧
      ((s.rx = [] ∧ t = s) ∨
       ∃ b rest, s.rx = b :: rest ∧ t = { s with rx := rest, phase := if b = s.config.delim then .waitFrame else .resync }) := by
  obtain ⟨hp, h⟩ := inPhase_next h
  refine ⟨hp, ?_⟩
  cases hr : s.rx with
  | nil => simp only [rxPop, hr] at h; cases h; exact .inl ⟨rfl, rfl⟩
  | cons b rest =>
    simp only [rxPop, hr] at h
    rw [resyncByte_eq] at h
    cases h
    exact .inr ⟨b, rest, rfl, rfl⟩

theorem resyncClass_next {d : Bool} {want : Byte} {s t : State} (h : resyncClass d want s = .next t) :
    s.phase = .resync ∧
      ((s.rx = [] ∧ t = s) ∨
       ∃ rest, s.rx = want :: rest ∧ decide (want = s.config.delim) = d ∧
         t = { s with rx := rest, phase := if want = s.config.delim then .waitFrame else .resync }) := by
  obtain ⟨hp, h⟩ := inPhase_next h
  refine ⟨hp, ?_⟩
  cases hr : s.rx with
  | nil => simp only [rxPop, hr] at h; cases h; exact .inl ⟨rfl, rfl⟩
  | cons b rest =>
    simp only [rxPop, hr] at h
    split at h
    · rename_i hb
      rw [resyncByte_eq] at h
      cases h
      obtain ⟨rfl, hd⟩ := hb
      exact .inr ⟨rest, rfl, hd, rfl⟩
    · cases h

/-! ### The bank port -/

theorem bankWrite_next {n : Nat} {v : BankValue} {s t : State} (h : bankWrite s n v = .next t) :
    (∃ w, bankRead s v.sel n = some w) ∧ t = bankStore s n v := by
  unfold bankWrite at h
  split at h
  · cases h
  · cases h; exact ⟨⟨_, ‹_›⟩, rfl⟩

/-! ### The stepper -/

/-- What SERVO_STEP leaves of the state. -/
theorem servoStep_rest {n : Nat} {s t : State} (h : servoStep n s = .next t) :
    t = { s with position := t.position, direction := t.direction, out := t.out, servoOut := t.servoOut } := by
  obtain ⟨p, d, c, hp, hd, hc⟩ := servoStep_next h
  rw [servoStep_eq hp hd hc] at h
  cases h; rfl

/-- What LED_EMIT leaves of the state. -/
theorem ledEmit_rest {n : Nat} {s t : State} (h : ledEmit n s = .next t) :
    t = { s with out := t.out, ledOut := t.ledOut } := by
  obtain ⟨v, hv⟩ := ledEmit_next h
  rw [ledEmit_eq hv] at h
  cases h; rfl

/-- A TICK completes only where it is enabled, writes the servo registers and the outputs, and nothing else. -/
theorem execTick_next {s t : State} (h : execTick s = .next t) :
    tickEnabled s = true ∧ t = { s with position := t.position, direction := t.direction, out := t.out,
                                        servoOut := t.servoOut, ledOut := t.ledOut } := by
  unfold execTick at h
  split at h
  · refine ⟨‹_›, ?_⟩
    obtain ⟨u, hu, ht⟩ := andThen_eq_next.1 h
    let P : State → Prop := fun t => t = { s with position := t.position, direction := t.direction, out := t.out,
                                                  servoOut := t.servoOut, ledOut := t.ledOut }
    have hPu : P u := forEach_keeps (P := P)
      (fun n _ a b ha hb => by have := servoStep_rest hb; simp only [P] at *; rw [this, ha]) rfl hu
    exact forEach_keeps (P := P)
      (fun n _ a b ha hb => by have := ledEmit_rest hb; simp only [P] at *; rw [this, ha]) hPu ht
  · cases h

/-! ### The step -/

/-- The operations a step can run: an event, or the micro-step that the phase selects. -/
def StepOp (s : State) (i : Instr) : Prop :=
  i = .idle ∨ (∃ b, i = .rxpush b) ∨ i = .tick ∨ i = .reset ∨ i = s.phase.microStep

theorem decodeEvent_cases (w : EventWord) :
    (eventKind w = 0b00#2 ∧ decodeEvent w = .idle) ∨ (eventKind w = 0b01#2 ∧ decodeEvent w = .rxpush (eventData w)) ∨
    (eventKind w = 0b10#2 ∧ decodeEvent w = .tick) ∨ (eventKind w = 0b11#2 ∧ decodeEvent w = .reset) := by
  unfold decodeEvent
  have : ∀ k : BitVec 2, k = 0b00#2 ∨ k = 0b01#2 ∨ k = 0b10#2 ∨ k = 0b11#2 := by decide
  rcases this (eventKind w) with h | h | h | h <;> simp [h]

theorem stepOp_of_decode {s : State} {i : Instr} (h : decode s.config (fetch s).1 = .ok i) : StepOp s i := by
  rcases fetch_fst s with ⟨w, hw⟩ | hw
  · rw [hw] at h
    cases h
    rcases decodeEvent_cases w with ⟨-, h⟩ | ⟨-, h⟩ | ⟨-, h⟩ | ⟨-, h⟩ <;> simp [StepOp, h]
  · rw [hw] at h
    have := decodePhase_code s.phase
    change decodePhase s.phase.code = .ok i at h
    rw [this] at h
    cases h
    simp [StepOp]

theorem nextOp_eq {s : State} {i : Instr} : nextOp s = some i ↔ decode s.config (fetch s).1 = .ok i := by
  unfold nextOp
  cases decode s.config (fetch s).1 <;> simp [Except.toOption]

/-- Every step runs one operation in the fetched state: what it is, and how the outcome comes about. -/
theorem step_cases (s : State) : ∃ i, nextOp s = some i ∧ StepOp s i ∧ step s = exec i (fetch s).2 := by
  obtain ⟨i, hi⟩ := decode_fetch s
  exact ⟨i, nextOp_eq.2 hi, stepOp_of_decode hi, step_of_decode hi⟩

end Sys2Proof.Machine
end

