-- ==== Sys2Proof/Tests/Slice0.lean ====
section
/-! SUPPORT. The model's own tests: ill-formed terms refused, words written out from the spec's encodings, the spec's test
vectors (V-*, `95_test_vectors.md`) one step at a time, and a witness for the hypotheses of every statement. -/

namespace Sys2Proof.Tests

open Sys2Proof.Machine

/-! ### Helpers -/

/-- The reset state of the bare block with `L = l` and `S = s`. -/
def base (l s : Nat) : State := State.resetOf (Config.bare l s)

/-- A block with one servo channel, in the given registers. -/
def servo (pos : Int) (dir : Bool) (code : Byte) : State :=
  { base 1 1 with position := [pos], direction := [dir], speedCode := [code], brightness := [7] }

/-- A block of three LEDs and three servos, in the given phase and with the given bytes buffered. -/
def link (p : Phase) (rx : List Byte) : State := { base 3 3 with phase := p, rx := rx }

/-- The same with a frame held. -/
def held (p : Phase) (f : List Byte) : State := { link p [] with frame := some f }

/-- The frame of the source's scenario S6. -/
def f6 : List Byte := [10, 20, 30, 0, 128, 255]

/-- The outcome is a next state that meets `p`. -/
def nextIs (r : StepResult) (p : State → Bool) : Bool :=
  match r with
  | .next t => p t
  | .fault _ => false
  | .refused _ => false

/-- The servo registers and latch of channel 0 after an operation. -/
def servoIs (r : StepResult) (pos : Int) (dir : Bool) : Bool :=
  nextIs r fun t => t.position = [pos] && t.direction = [dir] && t.servoOut = [some pos]

/-! ### Ill-formed operations are refused by the check -/

theorem test_wf_frameLed_offset : Instr.wellFormed (Config.bare 3 3) (.frameLed 3 0) = false := by decide
theorem test_wf_frameSpd_below : Instr.wellFormed (Config.bare 3 3) (.frameSpd 2 0) = false := by decide
theorem test_wf_frameSpd_above : Instr.wellFormed (Config.bare 3 3) (.frameSpd 6 0) = false := by decide
theorem test_wf_skip_delim : Instr.wellFormed (Config.bare 3 3) (.skip 13) = false := by decide
theorem test_wf_servoStep_index : Instr.wellFormed (Config.bare 3 3) (.servoStep 3) = false := by decide
theorem test_wf_ledEmit_index : Instr.wellFormed (Config.bare 3 3) (.ledEmit 3) = false := by decide
theorem test_wf_decodeFrame_size : Instr.wellFormed (Config.bare 3 3) (.decodeFrame [1, 2, 3, 4, 5]) = false := by decide
theorem test_wf_bankRd_led : Instr.wellFormed (Config.bare 2 3) (.bankRd .brightness 2) = false := by decide
theorem test_wf_bankWr_servo : Instr.wellFormed (Config.bare 3 2) (.bankWr 2 (.position 0)) = false := by decide

/-! ### Words written out from the encodings (R81 to R87, R26) -/

theorem test_word_idle : decode (Config.bare 3 3) (.ev 0b00_00000000#10) = .ok .idle := by decide
theorem test_word_idle_data : decode (Config.bare 3 3) (.ev 0b00_10100101#10) = .ok .idle := by decide
theorem test_word_rxpush : decode (Config.bare 3 3) (.ev 0b01_00011110#10) = .ok (.rxpush 30) := by decide
theorem test_word_tick : decode (Config.bare 3 3) (.ev 0b10_00000000#10) = .ok .tick := by decide
theorem test_word_reset : decode (Config.bare 3 3) (.ev 0b11_00000000#10) = .ok .reset := by decide
theorem test_word_fire : decode (Config.bare 3 3) (.int 0b000#3) = .ok .fire := by decide
theorem test_word_consume : decode (Config.bare 3 3) (.int 0b001#3) = .ok .consume := by decide
theorem test_word_update : decode (Config.bare 3 3) (.int 0b010#3) = .ok .update := by decide
theorem test_word_echo : decode (Config.bare 3 3) (.int 0b011#3) = .ok .echo := by decide
theorem test_word_resync : decode (Config.bare 3 3) (.int 0b100#3) = .ok .resync := by decide
theorem test_word_reserved_phase : decode (Config.bare 3 3) (.int 0b101#3) = .error .reservedPhase := by decide
theorem test_word_frameLed : decode (Config.bare 3 3) (.wireFrame 2 0b00011110#8) = .ok (.frameLed 2 30) := by decide
theorem test_word_frameSpd : decode (Config.bare 3 3) (.wireFrame 5 0b11111111#8) = .ok (.frameSpd 5 255) := by decide
theorem test_word_frame_end : decode (Config.bare 3 3) (.wireFrame 6 0#8) = .error .offsetOutOfRange := by decide
theorem test_word_delim : decode (Config.bare 3 3) (.wireResync 0b00001101#8) = .ok .delim := by decide
theorem test_word_skip : decode (Config.bare 3 3) (.wireResync 0b01000001#8) = .ok (.skip 65) := by decide
theorem test_word_lookup : decode (Config.bare 3 3) (.subLookup 0b10000000#8) = .ok (.lookup 128) := by decide
theorem test_word_servoStep : decode (Config.bare 3 3) (.subServo 0b10_00000000#10 2) = .ok (.servoStep 2) := by decide
theorem test_word_servoStep_invoker :
    decode (Config.bare 3 3) (.subServo 0b01_00000000#10 2) = .error .wrongInvoker := by decide
theorem test_word_ledEmit : decode (Config.bare 3 3) (.subLed 0b10_00000000#10 0) = .ok (.ledEmit 0) := by decide
theorem test_word_decodeFrame : decode (Config.bare 3 3) (.subDecode 0b010#3 f6) = .ok (.decodeFrame f6) := by decide
theorem test_word_decodeFrame_size : decode (Config.bare 3 3) (.subDecode 0b010#3 [1]) = .error .frameSize := by decide
theorem test_word_bankRd : decode (Config.bare 3 3) (.subBank 0b001#3 1 none) = .ok (.bankRd .direction 1) := by decide
theorem test_word_bankRd_index :
    decode (Config.bare 2 2) (.subBank 0b011#3 2 none) = .error .indexOutOfRange := by decide
theorem test_word_bankWr :
    decode (Config.bare 3 3) (.subBank 0b110#3 1 (some (.speedCode 200))) = .ok (.bankWr 1 (.speedCode 200)) := by decide
theorem test_word_bankWr_operand :
    decode (Config.bare 3 3) (.subBank 0b110#3 1 (some (.position 200))) = .error .bankOperand := by decide

/-- The table's rows as the host numbers them. -/
theorem test_table_rows :
    decodeTableWord 16 0x000 = some .idle ∧ decodeTableWord 16 0x100 = some (.rxpush 0) ∧
    decodeTableWord 16 0x200 = some .tick ∧ decodeTableWord 16 0x300 = some .reset ∧
    decodeTableWord 16 0x400 = none ∧ decodeTableWord 8 0 = some .fire ∧ decodeTableWord 8 1 = some .consume ∧
    decodeTableWord 8 2 = some .update ∧ decodeTableWord 8 3 = some .echo ∧ decodeTableWord 8 4 = some .resync ∧
    decodeTableWord 8 13 = some .delim ∧ decodeTableWord 8 65 = some (.skip 65) := by decide

/-- A placed row is what the very next step runs. -/
theorem test_placed_events :
    nextIs (step (State.reset.withFetchWord 16 0x000)) (fun t => t.schedule = [] && t.rx = []) = true ∧
    nextIs (step (State.reset.withFetchWord 16 0x141)) (fun t => t.rx = [65]) = true ∧
    nextIs (step (State.reset.withFetchWord 16 0x200)) (fun t => t.position = [80, 80, 80]) = true ∧
    nextIs (step ((servo 150 DEC 200).withFetchWord 16 0x300)) (fun t => t.position = [0]) = true := by decide
theorem test_placed_microsteps :
    nextIs (step (State.reset.withFetchWord 8 0)) (fun t => t.phase = .consumeFrame) = true ∧
    nextIs (step (State.reset.withFetchWord 8 1)) (fun t => t.phase = .updateState) = true ∧
    nextIs (step (State.reset.withFetchWord 8 2)) (fun t => t.phase = .echo) = true ∧
    nextIs (step (State.reset.withFetchWord 8 3)) (fun t => t.phase = .resync && t.tx.length = 6) = true ∧
    nextIs (step (State.reset.withFetchWord 8 4)) (fun t => t.phase = .resync && t.rx = []) = true ∧
    nextIs (step (State.reset.withFetchWord 8 13)) (fun t => t.phase = .waitFrame && t.rx = []) = true := by decide

/-! ### The spec's vectors, one operation each -/

/-- V-LK-1 to V-LK-17: the ends of the runs. -/
theorem test_lookup_runs : ([0, 1, 13, 14, 15, 23, 24, 38, 39, 63, 64, 104, 105, 128, 172, 173, 255].map
    fun c => tableEntry (Config.bare 1 1) c) = [0, 0, 0, 0, 0, 0, 1, 1, 2, 2, 3, 3, 4, 4, 4, 5, 5] := by decide
/-- Whole-table check of 2.1: the entries sum to 875. -/
theorem test_table_sum : (Config.speedTableRuns.map fun r => r.1 * r.2).sum = 875 := by decide
/-- V-LK-14. -/
theorem test_lookup_128 : nextIs (exec (.lookup 128) (base 1 1)) (fun t => t.result = some (.stepMagnitude 4)) = true := by
  decide
/-- V-BK-1, V-BK-2, V-BK-4. -/
theorem test_bankRd :
    nextIs (exec (.bankRd .position 1) (base 2 2)) (fun t => t.result = some (.register (.position 0))) = true ∧
    nextIs (exec (.bankRd .direction 0) (base 2 2)) (fun t => t.result = some (.register (.direction false))) = true ∧
    nextIs (exec (.bankRd .brightness 2) (base 2 2)) (fun _ => true) = false := by decide
/-- V-BK-3. -/
theorem test_bankWr : nextIs (exec (.bankWr 1 (.speedCode 200)) (base 2 2)) (fun t => t.speedCode = [0, 200]) = true := by
  decide
/-- V-DEC-1, V-DEC-2, V-DEC-3. -/
theorem test_decodeFrame_splits :
    nextIs (exec (.decodeFrame f6) (base 3 3)) (fun t => t.brightness = [10, 20, 30] && t.speedCode = [0, 128, 255]) = true ∧
    nextIs (exec (.decodeFrame [7, 9]) (base 0 2)) (fun t => t.brightness = [] && t.speedCode = [7, 9]) = true ∧
    nextIs (exec (.decodeFrame [200, 13]) (base 2 0)) (fun t => t.brightness = [200, 13] && t.speedCode = []) = true := by
  decide
/-- V-DEC-6. -/
theorem test_decodeFrame_keeps : nextIs (exec (.decodeFrame [255, 0]) (servo 150 DEC 9)) (fun t =>
    t.brightness = [255] && t.speedCode = [0] && t.position = [150] && t.direction = [DEC]) = true := by decide
/-- R82 on the frame of S6: offset 1 and offset 4. -/
theorem test_frame_bytes :
    nextIs (exec (.frameLed 1 20) (base 3 3)) (fun t => t.brightness = [0, 20, 0] && t.speedCode = [0, 0, 0]) = true ∧
    nextIs (exec (.frameSpd 4 128) (base 3 3)) (fun t => t.speedCode = [0, 128, 0] && t.brightness = [0, 0, 0]) = true := by
  decide
/-- V-SS-1 to V-SS-8, V-SS-13, V-SS-14. -/
theorem test_servoStep_moves :
    servoIs (exec (.servoStep 0) (servo 100 INC 255)) 105 INC = true ∧
    servoIs (exec (.servoStep 0) (servo 100 DEC 255)) 95 DEC = true ∧
    servoIs (exec (.servoStep 0) (servo 178 INC 255)) 180 DEC = true ∧
    servoIs (exec (.servoStep 0) (servo 175 INC 255)) 180 DEC = true ∧
    servoIs (exec (.servoStep 0) (servo 174 INC 255)) 179 INC = true ∧
    servoIs (exec (.servoStep 0) (servo 82 DEC 255)) 80 INC = true ∧
    servoIs (exec (.servoStep 0) (servo 85 DEC 255)) 80 INC = true ∧
    servoIs (exec (.servoStep 0) (servo 86 DEC 255)) 81 DEC = true ∧
    servoIs (exec (.servoStep 0) (servo 80 INC 64)) 83 INC = true ∧
    servoIs (exec (.servoStep 0) (servo 180 DEC 64)) 177 DEC = true := by decide
/-- V-SS-9 to V-SS-12, V-SS-15 to V-SS-20. -/
theorem test_servoStep_toggles :
    servoIs (exec (.servoStep 0) (servo 80 INC 0)) 80 DEC = true ∧
    servoIs (exec (.servoStep 0) (servo 80 DEC 0)) 80 INC = true ∧
    servoIs (exec (.servoStep 0) (servo 180 DEC 0)) 180 INC = true ∧
    servoIs (exec (.servoStep 0) (servo 180 INC 0)) 180 DEC = true ∧
    servoIs (exec (.servoStep 0) (servo 180 INC 64)) 180 DEC = true ∧
    servoIs (exec (.servoStep 0) (servo 80 DEC 64)) 80 INC = true ∧
    servoIs (exec (.servoStep 0) (servo 0 INC 0)) 80 DEC = true ∧
    servoIs (exec (.servoStep 0) (servo 0 INC 255)) 80 DEC = true ∧
    servoIs (exec (.servoStep 0) (servo 130 INC 23)) 130 INC = true ∧
    servoIs (exec (.servoStep 0) (servo 130 INC 24)) 131 INC = true := by decide
/-- R153's worked example. -/
theorem test_ledEmit : nextIs (exec (.ledEmit 2) { base 3 3 with brightness := [10, 20, 30] })
    (fun t => t.out = [.pwm 2 30] && t.ledOut = [none, none, some 30]) = true := by decide
/-- V-TK-1, V-TK-3. -/
theorem test_tick_events :
    nextIs (exec .tick (servo 100 INC 255)) (fun t => t.out = [.servo 0 105, .pwm 0 7] && t.position = [105]) = true ∧
    nextIs (exec .tick { base 0 2 with position := [80, 180], direction := [INC, DEC] })
      (fun t => t.out = [.servo 0 80, .servo 1 180] && t.direction = [DEC, INC]) = true := by decide
/-- V-TK-5, V-TK-6. -/
theorem test_tick_enabling :
    nextIs (exec .tick (held .updateState f6)) (fun _ => true) = false ∧
    nextIs (exec .tick { base 0 1 with phase := .resync, position := [100], speedCode := [255] })
      (fun t => t.position = [105]) = true ∧
    nextIs (exec .tick { base 0 1 with phase := .resync, config := { Config.bare 0 1 with tickInResync := false } })
      (fun _ => true) = false := by decide
/-- V-LP-1, V-LP-12. -/
theorem test_rxpush :
    nextIs (exec (.rxpush 30) (link .waitFrame [10, 20])) (fun t => t.rx = [10, 20, 30] && t.phase = .waitFrame) = true ∧
    nextIs (exec (.rxpush 9) (link .echo [9, 9])) (fun t => t.rx = [9, 9, 9] && t.phase = .echo) = true := by decide
/-- V-LP-2, V-LP-3. -/
theorem test_fire :
    nextIs (exec .fire (link .waitFrame [1, 2, 3, 4, 5])) (fun t => t.phase = .waitFrame && t.rx = [1, 2, 3, 4, 5]) = true ∧
    nextIs (exec .fire (link .waitFrame f6)) (fun t => t.phase = .consumeFrame && t.rx = f6) = true := by decide
/-- V-LP-4. -/
theorem test_consume : nextIs (exec .consume (link .consumeFrame (f6 ++ [13])))
    (fun t => t.phase = .updateState && t.frame = some f6 && t.rx = [13]) = true := by decide
/-- V-LP-5. -/
theorem test_update : nextIs (exec .update (held .updateState f6)) (fun t =>
    t.phase = .echo && t.brightness = [10, 20, 30] && t.speedCode = [0, 128, 255] && t.frame = some f6) = true := by decide
/-- V-LP-6. -/
theorem test_echo : nextIs (exec .echo (held .echo f6))
    (fun t => t.phase = .resync && t.tx = f6 && t.frame = none) = true := by decide
/-- V-LP-7, V-LP-8, V-LP-9, V-LP-10. -/
theorem test_resync :
    nextIs (exec .resync (link .resync [13])) (fun t => t.phase = .waitFrame && t.rx = []) = true ∧
    nextIs (exec .resync (link .resync [0x41, 13])) (fun t => t.phase = .resync && t.rx = [13]) = true ∧
    nextIs (exec .resync (link .resync [])) (fun t => t.phase = .resync && t.rx = []) = true ∧
    nextIs (exec .resync (link .resync [13, 13, 13])) (fun t => t.phase = .waitFrame && t.rx = [13, 13]) = true := by decide
/-- R175 by class. -/
theorem test_delim_skip :
    nextIs (exec .delim (link .resync [13])) (fun t => t.phase = .waitFrame && t.rx = []) = true ∧
    nextIs (exec (.skip 0x41) (link .resync [0x41, 13])) (fun t => t.phase = .resync && t.rx = [13]) = true ∧
    nextIs (exec .delim (link .resync [0x41])) (fun _ => true) = false := by decide
/-- V-RS-1, V-RS-2. -/
theorem test_reset :
    nextIs (exec .reset { servo 150 DEC 200 with phase := .resync, rx := [1, 2], tx := [9, 200], out := [.pwm 0 1] })
      (fun t => t.position = [0] && t.direction = [INC] && t.speedCode = [0] && t.brightness = [0] &&
        t.phase = .waitFrame && t.frame = none && t.rx = [] && t.tx = [] && t.out = [] &&
        t.servoOut = [none] && t.ledOut = [none]) = true ∧
    nextIs (exec .reset { base 1 1 with config := { Config.bare 1 1 with banner := [0x42, 0x46, 0x0A] } })
      (fun t => t.tx = [0x42, 0x46, 0x0A]) = true := by decide

/-! ### Witnesses: for every statement with hypotheses, a state and operands that meet them -/

/-- A block with a receive buffer of two bytes. -/
def small (rx : List Byte) : State := { base 1 1 with config := { Config.bare 1 1 with rxCap := some 2 }, rx := rx }

theorem witness_RxPushAppendsWhileThereIsRoom :
    (base 1 1).config.rxCap = none ∧ ((small [1]).config.rxCap = some 2 ∧ (small [1]).rx.length < 2) ∧
    ((small [1, 2]).config.rxCap = some 2 ∧ 2 ≤ (small [1, 2]).rx.length) := by decide

theorem witness_TickStepsEveryServoAndEmitsEveryLed :
    (ArraysSized (base 3 3) ∧ (base 3 3).phase = .waitFrame) ∧
    (ArraysSized (link .resync []) ∧ (link .resync []).phase = .resync ∧ (link .resync []).config.tickInResync = true) ∧
    ((0 : Nat) < (base 3 3).config.S ∧ 2 < (base 3 3).config.S ∧ 2 < (base 3 3).config.L) ∧
    (link .consumeFrame f6).phase = .consumeFrame ∧ (held .updateState f6).phase = .updateState ∧
    (held .echo f6).phase = .echo ∧
    ({ base 1 1 with phase := .resync, config := { Config.bare 1 1 with tickInResync := false } } : State).config.tickInResync
      = false := by decide

theorem witness_TickWritesServosThenLedsAscending : ArraysSized (base 3 3) ∧ ∃ t, exec .tick (base 3 3) = .next t :=
  ⟨by decide, _, rfl⟩

theorem witness_LookupReturnsTheTableEntry : (base 1 1).config.speedTable = Config.defaultTable := rfl

theorem witness_DefaultTableIsSixRuns : (23#8).toNat ≤ 23 ∧ (24 ≤ (24#8).toNat ∧ (24#8).toNat ≤ 38) ∧
    (39 ≤ (63#8).toNat ∧ (63#8).toNat ≤ 63) ∧ (64 ≤ (64#8).toNat ∧ (64#8).toNat ≤ 104) ∧
    (105 ≤ (172#8).toNat ∧ (172#8).toNat ≤ 172) ∧ 173 ≤ (173#8).toNat ∧ 23#8 ≤ 24#8 := by decide

theorem witness_ServoStepMovesThenReflects :
    (servo 85 DEC 255).position[0]? = some 85 ∧ (servo 85 DEC 255).direction[0]? = some DEC ∧
    (servo 85 DEC 255).speedCode[0]? = some 255 ∧
    (80 : Int) = (if DEC = DEC then 85 - ((servo 85 DEC 255).config.speedTable[(255#8).toNat]'(255#8).isLt : Nat)
      else 85 + ((servo 85 DEC 255).config.speedTable[(255#8).toNat]'(255#8).isLt : Nat)) := by decide

theorem witness_ServoStepEndsWithinTheBounds :
    (ArraysSized (base 3 3) ∧ (base 3 3).config.minPos < (base 3 3).config.maxPos ∧ 2 < (base 3 3).config.S) ∧
    ∃ t, exec .tick (base 3 3) = .next t := ⟨by decide, _, rfl⟩

theorem witness_LedEmitWritesTheLatchedBrightness :
    (servo 0 INC 0).brightness[0]? = some 7 ∧ (Config.bare 1 1).brightReset[0]? = some 0 ∧
    ∃ t, step (State.reset.withFetchWord 16 0x200) = .next t ∧ t.ledOut ≠ (State.reset.withFetchWord 16 0x200).ledOut :=
  ⟨rfl, rfl, _, rfl, by decide⟩

theorem witness_TickWithZeroDeltaTogglesOnTheBounds :
    (ArraysSized (servo 180 INC 23) ∧ tickEnabled (servo 180 INC 23) = true ∧
      (servo 180 INC 23).position[0]? = some 180 ∧ (servo 180 INC 23).direction[0]? = some INC ∧
      (servo 180 INC 23).speedCode[0]? = some 23 ∧ tableEntry (servo 180 INC 23).config 23 = 0 ∧
      (servo 180 INC 23).config.minPos ≤ 180 ∧ 180 ≤ (servo 180 INC 23).config.maxPos ∧
      (servo 180 INC 23).config.minPos < (servo 180 INC 23).config.maxPos) := by decide

theorem witness_FirstTicksAfterResetStayOnMinPos :
    (ArraysSized (servo 0 INC 255) ∧ (servo 0 INC 255).config.minPos < (servo 0 INC 255).config.maxPos ∧
      tickEnabled (servo 0 INC 255) = true ∧ (servo 0 INC 255).speedCode[0]? = some 255 ∧
      (servo 0 INC 255).position[0]? = some 0 ∧ (servo 0 INC 255).direction[0]? = some INC ∧
      (tableEntry (servo 0 INC 255).config 255 : Int) ≤ (servo 0 INC 255).config.minPos) ∧
    (ArraysSized (servo 80 DEC 0) ∧ (servo 80 DEC 0).position[0]? = some (servo 80 DEC 0).config.minPos ∧
      (servo 80 DEC 0).direction[0]? = some DEC) ∧
    (ArraysSized (servo 80 INC 24) ∧ (servo 80 INC 24).position[0]? = some (servo 80 INC 24).config.minPos ∧
      (servo 80 INC 24).direction[0]? = some INC ∧ 0 < tableEntry (servo 80 INC 24).config 24 ∧
      (servo 80 INC 24).config.minPos + tableEntry (servo 80 INC 24).config 24 < (servo 80 INC 24).config.maxPos) := by
  decide

/-- A running block in the middle of an exchange: one frame consumed, no tick yet. -/
theorem inv_of_running (p : Phase) (f : Option (List Byte)) (rx : List Byte)
    (hf : FrameHeld { link p rx with frame := f }) (hr : RxBounded { link p rx with frame := f }) :
    Inv { link p rx with frame := f } where
  valid := show (Config.bare 3 3).Valid from by decide
  sized := show ArraysSized (base 3 3) from by decide
  frame := hf
  rx := hr
  histories := show HistoriesWhole (base 3 3) from by decide
  positions := show PositionsBounded (base 3 3) from by decide
  events := show EventsInRange (base 3 3) from by decide
  latches := show LatchesFollowOut (base 3 3) from by decide

theorem witness_PositionsNeverWrap :
    Inv (link .waitFrame [1]) ∧ (link .waitFrame [1]).config.NoWrap ∧ (link .waitFrame [1]).position[2]? = some 0 ∧
    (link .waitFrame [1]).direction[2]? = some INC ∧ (link .waitFrame [1]).speedCode[2]? = some 0 :=
  ⟨inv_of_running .waitFrame none [1] (by decide) (by decide), by decide +kernel, rfl, rfl, rfl⟩

theorem witness_ConstantStepSweepsWithPeriodTwoK :
    ArraysSized (servo 80 INC 100) ∧ (servo 80 INC 100).config.minPos < (servo 80 INC 100).config.maxPos ∧
    tickEnabled (servo 80 INC 100) = true ∧ (servo 80 INC 100).position[0]? = some (servo 80 INC 100).config.minPos ∧
    (servo 80 INC 100).direction[0]? = some INC ∧ (servo 80 INC 100).speedCode[0]? = some 100 ∧
    tableEntry (servo 80 INC 100).config 100 = 3 ∧
    (34 : Nat) = (((servo 80 INC 100).config.maxPos - (servo 80 INC 100).config.minPos).toNat + 3 - 1) / 3 := by decide

theorem witness_TickKeepsServoChannelsIndependent :
    let s := { base 1 2 with position := [100, 90], rx := [1] }
    let s' := { base 1 2 with position := [100, 170], speedCode := [0, 255] }
    ArraysSized s ∧ ArraysSized s' ∧ s.config = s'.config ∧ s.position[0]? = s'.position[0]? ∧
    s.direction[0]? = s'.direction[0]? ∧ s.speedCode[0]? = s'.speedCode[0]? ∧
    (∃ t, exec .tick s = .next t) ∧ ∃ t, exec .tick s' = .next t :=
  ⟨by decide, by decide, rfl, rfl, rfl, rfl, ⟨_, rfl⟩, _, rfl⟩

theorem witness_StepperOperationsFrame :
    (∃ t, exec .tick (base 1 2) = .next t) ∧ (∃ t, exec (.servoStep 1) (base 1 2) = .next t) ∧ (0 : Nat) ≠ 1 ∧
    ∃ t, exec (.ledEmit 0) (base 1 2) = .next t := ⟨⟨_, rfl⟩, ⟨_, rfl⟩, by decide, _, rfl⟩

theorem witness_BankReadReturnsTheRegister :
    (servo 100 DEC 9).position[0]? = some 100 ∧ (servo 100 DEC 9).direction[0]? = some DEC ∧
    (servo 100 DEC 9).speedCode[0]? = some 9 ∧ (servo 100 DEC 9).brightness[0]? = some 7 ∧
    ArraysSized (base 2 1) ∧ BankSel.size (base 2 1).config .position ≤ 1 ∧
    BankSel.size (base 2 1).config .brightness ≤ 2 := by decide

theorem witness_BankWriteChangesOneRegister :
    1 < (base 2 2).position.length ∧ 1 < (base 2 2).direction.length ∧ 1 < (base 2 2).speedCode.length ∧
    1 < (base 2 2).brightness.length ∧ (ArraysSized (base 2 2) ∧ BankSel.size (base 2 2).config .direction ≤ 2) ∧
    ∃ t, exec (.bankWr 1 (.speedCode 200)) (base 2 2) = .next t :=
  ⟨by decide, by decide, by decide, by decide, by decide, _, rfl⟩

theorem witness_DecodeSplitsTheFrame :
    f6.length = (base 3 3).config.frameLen ∧ (2 < (base 3 3).config.L ∧ 2 < (base 3 3).config.S) ∧
    [1#8, 2, 3, 4, 5].length ≠ (base 3 3).config.frameLen := by decide

theorem witness_FrameByteGoesToItsChannel :
    ArraysSized (base 3 3) ∧ 2 < (base 3 3).config.L ∧
    ((base 3 3).config.L ≤ 3 ∧ 5 < (base 3 3).config.L + (base 3 3).config.S) ∧
    (base 3 3).config.L + (base 3 3).config.S ≤ 6 := by decide

theorem witness_DecodeIsEveryFrameByteOnce : ArraysSized (base 3 3) ∧ f6.length = (base 3 3).config.frameLen := by decide

theorem witness_ReceivedBytesReachChannelsByOffset :
    (link .consumeFrame f6).phase = .consumeFrame ∧ (link .consumeFrame f6).config.frameLen ≤ (link .consumeFrame f6).rx.length ∧
    5 < (link .consumeFrame f6).config.L + (link .consumeFrame f6).config.S := by decide

theorem witness_FireLeavesWaitFrameOnAWholeFrame :
    (link .waitFrame f6).phase = .waitFrame ∧
    (link .waitFrame f6).config.L + (link .waitFrame f6).config.S ≤ (link .waitFrame f6).rx.length ∧
    (link .waitFrame [1, 2, 3, 4, 5]).rx.length < (link .waitFrame f6).config.L + (link .waitFrame f6).config.S := by decide

theorem witness_ConsumeTakesTheOldestBytes :
    (link .consumeFrame (f6 ++ [13])).phase = .consumeFrame ∧
    f6.length = (link .consumeFrame []).config.L + (link .consumeFrame []).config.S ∧
    (link .consumeFrame (f6 ++ [13])).rx = f6 ++ [13] := by decide

theorem witness_UpdateLatchesTheFrame :
    (held .updateState f6).phase = .updateState ∧ (held .updateState f6).frame = some f6 ∧
    f6.length = (held .updateState f6).config.L + (held .updateState f6).config.S := by decide

theorem witness_EchoWritesTheFrameBack :
    ((held .echo f6).phase = .echo ∧ (held .echo f6).frame = some f6 ∧
      f6.length = (held .echo f6).config.L + (held .echo f6).config.S) ∧
    (held .updateState f6).phase = .updateState ∧ (held .updateState f6).frame = some f6 := by decide

theorem witness_ResyncDiscardsUpToTheDelimiter :
    ((link .resync [13, 1]).phase = .resync ∧ (link .resync [13, 1]).rx = 13 :: [1] ∧ 13#8 = (link .resync [13]).config.delim) ∧
    ((link .resync [65]).rx = 65 :: [] ∧ 65#8 ≠ (link .resync [65]).config.delim) ∧
    ((link .resync []).phase = .resync ∧ (link .resync []).rx = []) ∧
    ∃ t, step (link .resync [13]) = .next t ∧ t.phase ≠ .resync :=
  ⟨by decide, by decide, by decide, _, rfl, by decide⟩

theorem witness_DelimAndSkipAreTheTwoResyncs :
    ((link .resync [13]).phase = .resync ∧ (link .resync [13]).rx = (link .resync [13]).config.delim :: []) ∧
    ((link .resync [65]).rx = 65 :: [] ∧ 65#8 ≠ (link .resync [65]).config.delim) := by decide

theorem witness_PartialFrameIsNotActedOn :
    ((link .waitFrame [1, 2, 3, 4, 5]).phase = .waitFrame ∧
      (link .waitFrame [1, 2, 3, 4, 5]).rx.length < (link .waitFrame []).config.L + (link .waitFrame []).config.S ∧
      (link .waitFrame [1, 2, 3, 4, 5]).schedule = []) ∧
    (putTurn .protocol (link .waitFrame [1])).schedule = .protocol :: [] := by decide

theorem witness_ServiceTakesOneFrame :
    (link .waitFrame (f6 ++ [13])).phase = .waitFrame ∧
    f6.length = (link .waitFrame []).config.L + (link .waitFrame []).config.S ∧
    (link .waitFrame (f6 ++ [13])).rx = f6 ++ [13] := by decide

theorem witness_ExchangeRunsToItsDelimiter :
    (link .waitFrame (f6 ++ [0x41] ++ 13 :: [1])).schedule = [] ∧
    (link .waitFrame (f6 ++ [0x41] ++ 13 :: [1])).phase = .waitFrame ∧
    f6.length = (link .waitFrame []).config.L + (link .waitFrame []).config.S ∧
    (∀ b ∈ [0x41#8], b ≠ (link .waitFrame []).config.delim) ∧
    (link .waitFrame (f6 ++ [0x41] ++ 13 :: [1])).rx = f6 ++ [0x41] ++ (link .waitFrame []).config.delim :: [1] := by decide

theorem witness_MissingDelimiterStallsTheProtocol :
    (link .resync [1, 2, 3]).schedule = [] ∧ (link .resync [1, 2, 3]).phase = .resync ∧
    ∀ b ∈ (link .resync [1, 2, 3]).rx, b ≠ (link .resync [1, 2, 3]).config.delim := by decide

theorem witness_DelimitersRealignTheBlock :
    ((link .resync []).config.Valid ∧ (link .resync []).phase = .resync ∧ (link .resync []).rx = []) ∧
    ((small [7]).config.Valid ∧ (small [7]).phase = .waitFrame ∧ (small [7]).rx.length < (small [7]).config.frameLen) := by
  decide

theorem witness_IndependentStepsCommute :
    (enabled (base 1 1) (.rxpush 1) = true ∧ enabled (base 1 1) .tick = true) ∧
    (Inv (link .waitFrame f6) ∧ enabled (link .waitFrame f6) (.rxpush 1) = true ∧ enabled (link .waitFrame f6) .fire = true) ∧
    (Inv (link .consumeFrame f6) ∧ enabled (link .consumeFrame f6) .consume = true) ∧
    (Inv (held .updateState f6) ∧ enabled (held .updateState f6) .update = true) ∧
    (Inv (held .echo f6) ∧ enabled (held .echo f6) .echo = true) ∧
    (Inv (link .resync [13]) ∧ enabled (link .resync [13]) .resync = true ∧ (link .resync [13]).config.tickInResync = true) :=
  ⟨by decide, ⟨inv_of_running .waitFrame none f6 (by decide) (by decide), by decide, by decide⟩,
    ⟨inv_of_running .consumeFrame none f6 (by decide) (by decide), by decide⟩,
    ⟨inv_of_running .updateState (some f6) [] (by decide) (by decide), by decide⟩,
    ⟨inv_of_running .echo (some f6) [] (by decide) (by decide), by decide⟩,
    ⟨inv_of_running .resync none [13] (by decide) (by decide), by decide, by decide⟩⟩

theorem witness_LinkOperationsFrame :
    (∃ t, exec .idle (base 1 1) = .next t) ∧ (∃ t, exec (.rxpush 1) (base 1 1) = .next t) ∧
    (∃ t, exec .fire (link .waitFrame f6) = .next t) ∧ (∃ t, exec .consume (link .consumeFrame f6) = .next t) ∧
    (∃ t, exec .update (held .updateState f6) = .next t) ∧ (∃ t, exec .echo (held .echo f6) = .next t) ∧
    (∃ t, exec .resync (link .resync [13]) = .next t) ∧ (∃ t, exec .delim (link .resync [13]) = .next t) ∧
    ∃ t, exec (.skip 65) (link .resync [65]) = .next t :=
  ⟨⟨_, rfl⟩, ⟨_, rfl⟩, ⟨_, rfl⟩, ⟨_, rfl⟩, ⟨_, rfl⟩, ⟨_, rfl⟩, ⟨_, rfl⟩, ⟨_, rfl⟩, _, rfl⟩

theorem witness_DecoderAndPortOperationsFrame :
    (∃ t, exec (.frameLed 2 1) (base 3 3) = .next t) ∧ (∃ t, exec (.frameSpd 3 1) (base 3 3) = .next t) ∧
    (∃ t, exec (.decodeFrame f6) (base 3 3) = .next t) ∧ (∃ t, exec (.lookup 255) (base 3 3) = .next t) ∧
    (∃ t, exec (.bankRd .brightness 2) (base 3 3) = .next t) ∧ ∃ t, exec (.bankWr 2 (.position 9)) (base 3 3) = .next t :=
  ⟨⟨_, rfl⟩, ⟨_, rfl⟩, ⟨_, rfl⟩, ⟨_, rfl⟩, ⟨_, rfl⟩, _, rfl⟩

theorem witness_DecodeOfEncodeIsTheOperation :
    Instr.wellFormed (Config.bare 3 3) (.frameSpd 5 255) = true ∧
    Instr.wellFormed (Config.bare 3 3) (.bankWr 2 (.brightness 255)) = true := by decide

theorem witness_DecodedOperationsAreWellFormed :
    decode (Config.bare 3 3) (.ev 0b11_11111111#10) = .ok .reset ∧
    decode (Config.bare 3 3) (.wireFrame 5 255) = .ok (.frameSpd 5 255) := by decide

theorem witness_EventWordsFollowMatchAndMask :
    0x0FF#10 &&& 0x300#10 = 0x000#10 ∧ 0x1FF#10 &&& 0x300#10 = 0x100#10 ∧ 0x2FF#10 &&& 0x300#10 = 0x200#10 ∧
    0x3FF#10 &&& 0x300#10 = 0x300#10 := by decide

theorem witness_StepRunsTheFetchedOperation :
    decode (base 1 1).config (fetch (base 1 1)).1 = .ok .fire ∧
    ((putTurn (.event 0x101#10) (held .echo f6)).schedule = .event 0x101#10 :: [] ∧
      ¬(eventKind 0x101#10 = 0b10#2 ∧ tickEnabled (putTurn (.event 0x101#10) (held .echo f6)) = false)) ∧
    ((putTurn (.event 0x200#10) (held .echo f6)).schedule = .event 0x200#10 :: [] ∧ eventKind 0x200#10 = 0b10#2 ∧
      tickEnabled (putTurn (.event 0x200#10) (held .echo f6)) = false) ∧
    (putTurn .protocol (base 1 1)).schedule = .protocol :: [] ∧ (base 1 1).schedule = [] := by decide

theorem witness_EveryEnabledStepCanBeNext :
    enabled (base 1 1) .idle = true ∧ enabled (base 1 1) (.rxpush 1) = true ∧ enabled (base 1 1) .tick = true ∧
    enabled (base 1 1) .reset = true ∧ enabled (link .waitFrame f6) .fire = true ∧
    enabled (link .consumeFrame f6) .consume = true ∧ enabled (held .updateState f6) .update = true ∧
    enabled (held .echo f6) .echo = true ∧ enabled (link .resync [1]) .resync = true := by decide

theorem witness_TickDueInATransientPhaseIsNotLost :
    Inv (link .consumeFrame f6) ∧ (link .consumeFrame f6).config.tickInResync = true ∧
    (putTurn (.event 0x200#10) (link .consumeFrame f6)).schedule = .event 0x200#10 :: [] ∧ eventKind 0x200#10 = 0b10#2 ∧
    (link .consumeFrame f6).phase = .consumeFrame :=
  ⟨inv_of_running .consumeFrame none f6 (by decide) (by decide), by decide, by decide, by decide, by decide⟩

theorem witness_ResetMeetsTheInvariant : (Config.bare 0 1).Valid ∧ (Config.bare 1 0).Valid := by decide

theorem witness_StepKeepsTheInvariant : Inv (link .waitFrame f6) ∧ ∃ t, step (link .waitFrame f6) = .next t :=
  ⟨inv_of_running .waitFrame none f6 (by decide) (by decide), _, rfl⟩

theorem witness_StepsCompleteButForAnOverrun : Inv (held .updateState f6) :=
  inv_of_running .updateState (some f6) [] (by decide) (by decide)

theorem witness_EachComponentHasItsWriters :
    (∃ t, step (putTurn (.event 0x200#10) (base 1 1)) = .next t ∧ t.position ≠ (base 1 1).position) ∧
    (∃ t, step (held .updateState f6) = .next t ∧ t.speedCode ≠ (base 3 3).speedCode) ∧
    (∃ t, step (held .echo f6) = .next t ∧ t.tx ≠ (base 3 3).tx) ∧
    (∃ t, step (link .consumeFrame f6) = .next t ∧ t.frame ≠ (base 3 3).frame) ∧
    ∃ t, step (link .resync [1]) = .next t ∧ t.rx ≠ [1] :=
  ⟨⟨_, rfl, by decide⟩, ⟨_, rfl, by decide⟩, ⟨_, rfl, by decide⟩, ⟨_, rfl, by decide⟩, _, rfl, by decide⟩

theorem witness_HistoriesOnlyGrow :
    (∃ t, step (held .echo f6) = .next t) ∧ nextOp (held .echo f6) ≠ some .reset := ⟨⟨_, rfl⟩, by decide⟩

theorem witness_PhaseFollowsTheCycle : ∃ t, step (link .waitFrame f6) = .next t := ⟨_, rfl⟩

theorem witness_NoOperationWritesTheConfiguration : ∃ t, exec .reset (base 1 1) = .next t := ⟨_, rfl⟩

theorem witness_HostReachesChannelsOnlyThroughFrames :
    (∃ t, step (held .updateState f6) = .next t) ∧ nextOp (held .updateState f6) ≠ some .tick ∧
    nextOp (held .updateState f6) ≠ some .reset := ⟨⟨_, rfl⟩, by decide, by decide⟩

end Sys2Proof.Tests
end

/-! The FrameDecoder's route from the link to the channel registers (R53): where CONSUME and UPDATE complete and with
which state, and the frame byte that each register then holds. -/

namespace Sys2Proof.Machine

/-- CONSUME completes where a whole frame is buffered: the converse of `execConsume_next`. -/
theorem execConsume_eq {s : State} (hp : s.phase = .consumeFrame) (hl : s.config.frameLen ≤ s.rx.length) :
    execConsume s = .next { s with
      rx := s.rx.drop s.config.frameLen, frame := some (s.rx.take s.config.frameLen), phase := .updateState } := by
  rw [execConsume, inPhase_of_eq _ hp, rxPopMany_eq, if_pos hl]
  rfl

/-- DECODE completes on a frame of `L + S` bytes: the converse of `execDecodeFrame_next`. -/
theorem execDecodeFrame_eq {raw : List Byte} {s : State} (hl : raw.length = s.config.frameLen) :
    execDecodeFrame raw s = .next (splitFrame raw s) :=
  if_pos hl

/-- UPDATE completes where the frame buffer holds `L + S` bytes: the converse of `execUpdate_next`. -/
theorem execUpdate_eq {s : State} {f : List Byte} (hp : s.phase = .updateState) (hf : s.frame = some f)
    (hl : f.length = s.config.frameLen) :
    execUpdate s = .next { s with brightness := f.take s.config.L, speedCode := f.drop s.config.L, phase := .echo } := by
  rw [execUpdate, inPhase_of_eq _ hp, withFrame_of_eq _ hf hl, execDecodeFrame_eq hl]
  rfl

/-- CONSUME and then UPDATE latch the oldest `L + S` bytes of `rx`, split at offset `L`. -/
theorem execAll_consume_update {s : State} (hp : s.phase = .consumeFrame) (hl : s.config.frameLen ≤ s.rx.length) :
    execAll [.consume, .update] s = .next { s with
      brightness := (s.rx.take s.config.frameLen).take s.config.L
      speedCode := (s.rx.take s.config.frameLen).drop s.config.L
      phase := .echo
      frame := some (s.rx.take s.config.frameLen)
      rx := s.rx.drop s.config.frameLen } := by
  have hlen : (s.rx.take s.config.frameLen).length = s.config.frameLen := List.length_take_of_le hl
  simp only [execAll_cons, exec, execConsume_eq hp hl, andThen_next]
  rw [execUpdate_eq (f := s.rx.take s.config.frameLen)]
  exacts [rfl, rfl, rfl, hlen]

/-- Settles O23: every register holds the frame byte of its offset, and the frame is a prefix of `rx`. -/
theorem receivedBytesReachChannelsByOffset : Obligations.ReceivedBytesReachChannelsByOffset := by
  intro s hp hl
  have frameByte : ∀ k, k < s.config.frameLen → (s.rx.take s.config.frameLen)[k]? = s.rx[k]? :=
    fun k hk => List.getElem?_take_of_lt hk
  refine ⟨_, execAll_consume_update hp hl, frameByte, fun k hk => ?led, fun k hL hN => ?servo⟩
  case led =>
    exact (List.getElem?_take_of_lt hk).trans (frameByte k (Nat.lt_add_right _ hk))
  case servo =>
    calc ((s.rx.take s.config.frameLen).drop s.config.L)[k - s.config.L]?
        = (s.rx.take s.config.frameLen)[k]? := by rw [List.getElem?_drop, Nat.add_sub_cancel' hL]
      _ = s.rx[k]? := frameByte k hN

end Sys2Proof.Machine

/-! The FrameDecoder's split byte by byte (R143): where FRAME.LED and FRAME.SPD complete and with which state, and what a
whole frame leaves when each byte is stored once, in the order of the offsets. -/

namespace Sys2Proof.Machine

/-- BANK.WR completes where the register exists: the converse of `bankWrite_next`. -/
theorem bankWrite_eq {s : State} {n : Nat} {v w : BankValue} (h : bankRead s v.sel n = some w) :
    bankWrite s n v = .next (bankStore s n v) := by
  simp only [bankWrite, h]

theorem frameDest_of_lt {c : Config} {k : Nat} (hk : k < c.L) : frameDest c k = some (.led k) := if_pos hk

theorem frameDest_of_le {c : Config} {k : Nat} (hL : c.L ≤ k) (hk : k < c.frameLen) :
    frameDest c k = some (.servo (k - c.L)) :=
  (if_neg (Nat.not_lt.2 hL)).trans (if_pos hk)

/-- FRAME.LED completes on an offset of the brightness segment (R141). -/
theorem execFrameLed_eq {s : State} {k : Nat} (b : Byte) (hk : k < s.config.L) (hb : k < s.brightness.length) :
    execFrameLed k b s = .next (writeBrightness s k b) := by
  have hr : bankRead s .brightness k = some (.brightness s.brightness[k]) := by simp [bankRead, readBrightness, hb]
  simp only [execFrameLed, frameDest_of_lt hk]
  exact bankWrite_eq hr

/-- FRAME.SPD completes on an offset of the speed-code segment (R142). -/
theorem execFrameSpd_eq {s : State} {k : Nat} (b : Byte) (hL : s.config.L ≤ k) (hk : k < s.config.frameLen)
    (hc : k - s.config.L < s.speedCode.length) :
    execFrameSpd k b s = .next (writeSpeedCode s (k - s.config.L) b) := by
  have hr : bankRead s .speedCode (k - s.config.L) = some (.speedCode s.speedCode[k - s.config.L]) := by
    simp [bankRead, readSpeedCode, hc]
  simp only [execFrameSpd, frameDest_of_le hL hk]
  exact bankWrite_eq hr

/-- Writing the first register that is not yet overwritten extends the overwritten prefix by one. -/
theorem set_length_append_drop {α : Type} (xs ys : List α) (b : α) {n : Nat} (hn : xs.length = n) (h : n < ys.length) :
    (xs ++ ys.drop n).set n b = (xs ++ [b]) ++ ys.drop (n + 1) := by
  rw [List.set_append_right _ _ hn.le, hn, Nat.sub_self, List.drop_eq_getElem_cons h, List.set_cons_zero,
    List.append_assoc, List.singleton_append]

/-- The state once the first bytes of a frame are stored: each segment's registers are overwritten from the front. -/
def storePrefix (pre : List Byte) (s : State) : State :=
  { s with
    brightness := pre.take s.config.L ++ s.brightness.drop pre.length
    speedCode := pre.drop s.config.L ++ s.speedCode.drop (pre.length - s.config.L) }

theorem storePrefix_nil (s : State) : storePrefix [] s = s := by
  simp [storePrefix]

/-- Once every byte is stored, no register keeps its old value: the state is DECODE's. -/
theorem storePrefix_whole {s : State} {raw : List Byte} (h : ArraysSized s) (hl : raw.length = s.config.frameLen) :
    storePrefix raw s = splitFrame raw s := by
  obtain ⟨-, -, hc, hb, -, -⟩ := h
  simp [storePrefix, splitFrame, hl, Config.frameLen, List.drop_of_length_le, hc, hb]

/-- The operation that stores the frame byte of offset `k` (R143). -/
def frameByteOp (c : Config) (k : Nat) (b : Byte) : Instr :=
  if k < c.L then .frameLed k b else .frameSpd k b

/-- Below `L` the next byte extends the brightness segment, and the speed-code segment is still empty. -/
theorem writeBrightness_storePrefix {s : State} {pre : List Byte} (b : Byte) (hk : pre.length < s.config.L)
    (hb : s.brightness.length = s.config.L) :
    writeBrightness (storePrefix pre s) pre.length b = storePrefix (pre ++ [b]) s := by
  have hset := set_length_append_drop pre s.brightness b rfl (hb ▸ hk)
  have hle : (pre ++ [b]).length ≤ s.config.L := by simpa using hk
  have hlen : pre.length + 1 - s.config.L = pre.length - s.config.L := by omega
  simp only [storePrefix, writeBrightness, hlen, List.take_of_length_le hk.le, List.take_of_length_le hle,
    List.drop_of_length_le hk.le, List.drop_of_length_le hle, hset, List.length_append, List.length_singleton]

/-- From `L` on the next byte extends the speed-code segment, and the brightness segment is already whole. -/
theorem writeSpeedCode_storePrefix {s : State} {pre : List Byte} (b : Byte) (hL : s.config.L ≤ pre.length)
    (hb : s.brightness.length = s.config.L) (hc : pre.length - s.config.L < s.speedCode.length) :
    writeSpeedCode (storePrefix pre s) (pre.length - s.config.L) b = storePrefix (pre ++ [b]) s := by
  have hset := set_length_append_drop (pre.drop s.config.L) s.speedCode b List.length_drop hc
  have hold : s.brightness.drop pre.length = [] := List.drop_of_length_le (hb.trans_le hL)
  have hold' : s.brightness.drop (pre.length + 1) = [] := List.drop_of_length_le (by omega)
  simp only [storePrefix, writeSpeedCode, List.length_append, List.length_singleton, List.take_append_of_le_length hL,
    List.drop_append_of_le_length hL, Nat.succ_sub hL, hold, hold', hset]

/-- The next byte of the frame goes to the next register of its segment, and to no register of the other. -/
theorem exec_frameByteOp_storePrefix {s : State} {pre : List Byte} (b : Byte) (h : ArraysSized s)
    (hl : pre.length < s.config.frameLen) :
    exec (frameByteOp s.config pre.length b) (storePrefix pre s) = .next (storePrefix (pre ++ [b]) s) := by
  obtain ⟨-, -, hc, hb, -, -⟩ := h
  rcases Nat.lt_or_ge pre.length s.config.L with hk | hL
  case inl =>
    have hexists : pre.length < (storePrefix pre s).brightness.length := by simp [storePrefix]; omega
    rw [frameByteOp, if_pos hk, ← writeBrightness_storePrefix b hk hb]
    exact execFrameLed_eq b hk hexists
  case inr =>
    have hk : pre.length - s.config.L < s.speedCode.length := by rw [hc]; exact Nat.sub_lt_left_of_lt_add hL hl
    have hexists : pre.length - s.config.L < (storePrefix pre s).speedCode.length := by simp [storePrefix]; omega
    rw [frameByteOp, if_neg (Nat.not_lt.2 hL), ← writeSpeedCode_storePrefix b hL hb hk]
    exact execFrameSpd_eq b hL hl hexists

/-- Storing the bytes of a prefix of the frame, one by one, completes. -/
theorem execAll_frameByteOps {s : State} (h : ArraysSized s) (pre : List Byte) (hl : pre.length ≤ s.config.frameLen) :
    execAll (pre.mapIdx (frameByteOp s.config)) s = .next (storePrefix pre s) := by
  induction pre using List.reverseRecOn with
  | nil => simp [storePrefix_nil]
  | append_singleton pre b ih =>
    have hlt : pre.length < s.config.frameLen := by simpa using hl
    rw [List.mapIdx_concat, execAll_append, ih hlt.le, andThen_next, execAll_cons,
      exec_frameByteOp_storePrefix b h hlt, andThen_next, execAll_nil]

/-- Settles O22: the bytes stored one by one leave the state of DECODE's split. -/
theorem decodeIsEveryFrameByteOnce : Obligations.DecodeIsEveryFrameByteOnce := by
  intro s raw h hl
  calc execAll (raw.mapIdx (frameByteOp s.config)) s
      = .next (storePrefix raw s) := execAll_frameByteOps h raw hl.le
    _ = .next (splitFrame raw s) := by rw [storePrefix_whole h hl]
    _ = exec (.decodeFrame raw) s := (execDecodeFrame_eq hl).symm

end Sys2Proof.Machine

/-! The ActuatorStepper's channel operations (R151, R153, R154, R157): SERVO_STEP by the three branches of the reflection,
the bounds it ends within, and which steps reach a LED latch. -/

namespace Sys2Proof.Machine

theorem set_eq_self_of_getElem? {α : Type} {l : List α} {n : Nat} {a : α} (h : l[n]? = some a) : l.set n a = l := by
  obtain ⟨hn, rfl⟩ := List.getElem?_eq_some_iff.1 h
  exact List.set_getElem_self hn

/-- Settles O9: the three branches of R151 step 3 are those of `reflect`; strictly between the bounds the flag is written
back as it was. -/
theorem servoStepMovesThenReflects : Obligations.ServoStepMovesThenReflects := by
  intro s i pos dir code hp hd hc p hmoved
  have hmoved : movedPosition dir pos (tableEntry s.config code) = p := hmoved.symm
  have hstep : exec (.servoStep i) s = _ := servoStep_eq hp hd hc
  rw [hstep, hmoved]
  split_ifs with hlow hhigh
  · rw [reflect_low dir hlow]
  · rw [reflect_high dir (not_le.1 hlow) hhigh]
  · rw [reflect_between dir (not_le.1 hlow) (not_le.1 hhigh), set_eq_self_of_getElem? hd]

/-- SERVO_STEP of a channel that exists completes with one value as its position, its latch and its event, and that value
is within the bounds (R157). -/
theorem servoStep_within {s : State} {i : Nat} (hs : ArraysSized s) (hb : s.config.minPos < s.config.maxPos)
    (hi : i < s.config.S) :
    ∃ t v, servoStep i s = .next t ∧ s.config.minPos ≤ v ∧ v ≤ s.config.maxPos ∧
      t.position[i]? = some v ∧ t.servoOut[i]? = some (some v) ∧ t.out = s.out ++ [.servo i v] := by
  obtain ⟨hp, hd, hc, -, ho, -⟩ := hs
  have hstep := servoStep_eq (List.getElem?_eq_getElem (hp ▸ hi)) (List.getElem?_eq_getElem (hd ▸ hi))
    (List.getElem?_eq_getElem (hc ▸ hi))
  obtain ⟨hmin, hmax⟩ := reflect_within _ _ hb
  exact ⟨_, _, hstep, hmin, hmax, List.getElem?_set_self (hp ▸ hi), List.getElem?_set_self (ho ▸ hi), rfl⟩

/-- After a TICK each position is the one that R151 computes from its channel. -/
theorem execTick_position {s t : State} (hs : ArraysSized s) (h : execTick s = .next t) :
    t.position = (List.range s.config.S).map fun i => (servoAfter s i).1 := by
  obtain ⟨henabled, -⟩ := execTick_next h
  rw [execTick, if_pos henabled, tickLoops_eq hs] at h
  cases h
  rfl

/-- Settles O10: both SERVO_STEP and TICK write the reflection's answer, which is within the bounds. -/
theorem servoStepEndsWithinTheBounds : Obligations.ServoStepEndsWithinTheBounds := by
  refine ⟨fun s i hs hb hi => servoStep_within hs hb hi, fun s t hs hb htick p hmem => ?tick⟩
  rw [execTick_position hs htick] at hmem
  obtain ⟨i, -, rfl⟩ := List.mem_map.1 hmem
  exact reflect_within _ _ hb

@[simp] theorem fetch_snd_ledOut (s : State) : (fetch s).2.ledOut = s.ledOut := by rw [fetch_snd]

/-- No micro-step of the link protocol writes a LED latch. -/
theorem exec_microStep_ledOut (p : Phase) {s t : State} (h : exec p.microStep s = .next t) : t.ledOut = s.ledOut := by
  cases p with
  | waitFrame => obtain ⟨-, ⟨-, rfl⟩ | ⟨-, rfl⟩⟩ := execFire_next h <;> rfl
  | consumeFrame => obtain ⟨-, -, rfl⟩ := execConsume_next h; rfl
  | updateState => obtain ⟨-, f, -, -, rfl⟩ := execUpdate_next h; rfl
  | echo => obtain ⟨-, f, -, -, rfl⟩ := execEcho_next h; rfl
  | resync => obtain ⟨-, ⟨-, rfl⟩ | ⟨b, rest, -, rfl⟩⟩ := execResync_next h <;> rfl

/-- A step that changes a LED latch is a TICK or a RESET: every other operation a step can run leaves the latches. -/
theorem nextOp_of_step_changes_ledOut {s t : State} (h : step s = .next t) (hne : t.ledOut ≠ s.ledOut) :
    nextOp s = some .tick ∨ nextOp s = some .reset := by
  obtain ⟨i, hi, hop, hstep⟩ := step_cases s
  rw [hstep] at h
  rw [← fetch_snd_ledOut s] at hne
  rcases hop with rfl | ⟨b, rfl⟩ | rfl | rfl | rfl
  next => cases h; exact absurd rfl hne
  next => obtain ⟨-, rfl⟩ := execRxpush_next h; exact absurd rfl hne
  next => exact .inl hi
  next => exact .inr hi
  next => exact absurd (exec_microStep_ledOut _ h) hne

/-- Settles O11: LED_EMIT is one PWM write of the latched brightness, at reset into an empty history, and of the operations
a step can run only TICK and RESET reach a LED latch. -/
theorem ledEmitWritesTheLatchedBrightness : Obligations.LedEmitWritesTheLatchedBrightness :=
  ⟨fun _ _ _ hv => ledEmit_eq hv, fun c _ _ hv => ⟨_, ledEmit_eq (s := State.resetOf c) hv, rfl⟩,
    fun _ _ h hne => nextOp_of_step_changes_ledOut h hne⟩

end Sys2Proof.Machine

/-! The LinkProtocol's passage of one frame (R172, R173, R174, R54): the bytes CONSUME takes from the link, the registers
UPDATE latches from them, and the bytes ECHO returns. -/

namespace Sys2Proof.Machine

/-- CONSUME where the buffered bytes are a frame and the bytes behind it: those stay, in order. -/
theorem execConsume_append_eq {s : State} {f rest : List Byte} (hp : s.phase = .consumeFrame)
    (hl : f.length = s.config.frameLen) (hrx : s.rx = f ++ rest) :
    execConsume s = .next { s with rx := rest, frame := some f, phase := .updateState } := by
  have henough : s.config.frameLen ≤ s.rx.length := by rw [hrx, ← hl, List.length_append]; exact Nat.le_add_right _ _
  have htake : s.rx.take s.config.frameLen = f := by rw [hrx, List.take_left' hl]
  have hdrop : s.rx.drop s.config.frameLen = rest := by rw [hrx, List.drop_left' hl]
  rw [execConsume_eq hp henough, htake, hdrop]

/-- Settles O25: the oldest `L + S` bytes of `f ++ rest` are `f`. -/
theorem consumeTakesTheOldestBytes : Obligations.ConsumeTakesTheOldestBytes :=
  fun _ _ _ hp hl hrx => execConsume_append_eq hp hl hrx

/-- Settles O26: DECODE's split of the frame, with the phase then set, is UPDATE's state. -/
theorem updateLatchesTheFrame : Obligations.UpdateLatchesTheFrame := by
  intro s f hp hf hl
  have hupdate := execUpdate_eq hp hf hl
  exact ⟨hupdate, splitFrame f s, execDecodeFrame_eq hl, hupdate⟩

/-- ECHO completes where the frame buffer holds `L + S` bytes: the converse of `execEcho_next`. -/
theorem execEcho_eq {s : State} {f : List Byte} (hp : s.phase = .echo) (hf : s.frame = some f)
    (hl : f.length = s.config.frameLen) :
    execEcho s = .next { s with tx := s.tx ++ f, frame := none, phase := .resync } := by
  rw [execEcho, inPhase_of_eq _ hp, withFrame_of_eq _ hf hl]
  rfl

/-- UPDATE and then ECHO latch the frame and write it back: UPDATE keeps the frame that ECHO reads. -/
theorem execAll_update_echo {s : State} {f : List Byte} (hp : s.phase = .updateState) (hf : s.frame = some f)
    (hl : f.length = s.config.frameLen) :
    execAll [.update, .echo] s = .next { s with
      brightness := f.take s.config.L
      speedCode := f.drop s.config.L
      tx := s.tx ++ f
      frame := none
      phase := .resync } := by
  simp only [execAll_cons, exec, execUpdate_eq hp hf hl, andThen_next]
  rw [execEcho_eq (f := f)]
  exacts [rfl, rfl, hf, hl]

/-- Settles O27: the frame that ECHO writes is its own first `L` bytes, now the brightness registers, and then its last
`S`, now the speed codes. -/
theorem echoWritesTheFrameBack : Obligations.EchoWritesTheFrameBack := by
  refine ⟨fun s f hp hf hl => execEcho_eq hp hf hl, fun s f hp hf hl => ?inOrder⟩
  refine ⟨_, execAll_update_echo hp hf hl, rfl, ?_⟩
  exact congrArg (s.tx ++ ·) (List.take_append_drop s.config.L f).symm

end Sys2Proof.Machine

/-! The encoding (R80 to R92): the decoder's answer on each form of word, the round trip of every well-formed operation,
and what is known of an operation that was decoded. -/

namespace Sys2Proof

theorem decodeFrameByte_of_lt {c : Config} {k : Nat} (b : Byte) (hk : k < c.L) :
    decodeFrameByte c k b = .ok (.frameLed k b) :=
  if_pos hk

theorem decodeFrameByte_of_le {c : Config} {k : Nat} (b : Byte) (hL : c.L ≤ k) (hk : k < c.frameLen) :
    decodeFrameByte c k b = .ok (.frameSpd k b) :=
  (if_neg (Nat.not_lt.2 hL)).trans (if_pos hk)

/-- The bank port reads back the selector and the direction of the access that were written into its code (R86). -/
theorem decodeBank_bankCode_read {c : Config} {sel : BankSel} {n : Nat} (hn : n < sel.size c) :
    decodeBank c (bankCode false sel) n none = .ok (.bankRd sel n) := by
  simp [decodeBank, hn]

theorem decodeBank_bankCode_write {c : Config} {v : BankValue} {n : Nat} (hn : n < v.sel.size c) :
    decodeBank c (bankCode true v.sel) n (some v) = .ok (.bankWr n v) := by
  simp [decodeBank, hn]

/-- Settles O38, by the operation: the fields of its word read back what was written, and the range test that the decoder
makes is the operation's well-formedness. -/
theorem decodeOfEncodeIsTheOperation : Obligations.DecodeOfEncodeIsTheOperation := by
  intro c i hwf
  cases i with
  | idle | rxpush b | tick | reset => simp [encode, decode, decodeEvent]
  | fire | consume | update | echo | resync => rfl
  | frameLed k b => exact decodeFrameByte_of_lt b (of_decide_eq_true hwf)
  | frameSpd k b =>
    obtain ⟨hL, hk⟩ : c.L ≤ k ∧ k < c.frameLen := by simpa [Instr.wellFormed] using hwf
    exact decodeFrameByte_of_le b hL hk
  | delim => exact congrArg Except.ok (if_pos rfl)
  | skip b => exact congrArg Except.ok (if_neg (of_decide_eq_true hwf))
  | lookup code => rfl
  | servoStep i =>
    have hi : i < c.S := of_decide_eq_true hwf
    simp [encode, decode, hi]
  | ledEmit j =>
    have hj : j < c.L := of_decide_eq_true hwf
    simp [encode, decode, hj]
  | decodeFrame raw => exact if_pos (of_decide_eq_true hwf)
  | bankRd sel n => exact decodeBank_bankCode_read (of_decide_eq_true hwf)
  | bankWr n v => exact decodeBank_bankCode_write (of_decide_eq_true hwf)

/-- What is known of an operation `i` that was decoded from the word `w`: it is well formed, its canonical word has the
format of `w`, and is `w` itself where the format has no ignored bits. -/
def DecodedFrom (c : Config) (w : OpWord) (i : Instr) : Prop :=
  i.wellFormed c = true ∧ (encode c i).format = w.format ∧ (w.format = .wire ∨ w.format = .int → encode c i = w)

/-- A word in the format of the operation's canonical word, where that format is EV or SUB. -/
theorem DecodedFrom.of_format {c : Config} {w : OpWord} {i : Instr} (hwf : i.wellFormed c = true)
    (hf : (encode c i).format = w.format) (hw : w.format = .ev ∨ w.format = .sub) : DecodedFrom c w i := by
  refine ⟨hwf, hf, fun h => ?_⟩
  rcases hw with hw | hw <;> simp [hw] at h

/-- The canonical word of a well-formed operation is decoded from itself. -/
theorem DecodedFrom.of_encode {c : Config} {i : Instr} (hwf : i.wellFormed c = true) : DecodedFrom c (encode c i) i :=
  ⟨hwf, rfl, fun _ => rfl⟩

theorem decodedFrom_event (c : Config) (w : EventWord) : DecodedFrom c (.ev w) (decodeEvent w) := by
  rcases Machine.decodeEvent_cases w with ⟨-, h⟩ | ⟨-, h⟩ | ⟨-, h⟩ | ⟨-, h⟩ <;>
    exact h ▸ .of_format rfl rfl (.inl rfl)

theorem decodedFrom_phase {c : Config} {code : PhaseCode} {i : Instr} (h : decodePhase code = .ok i) :
    DecodedFrom c (.int code) i := by
  unfold decodePhase at h
  split_ifs at h <;> cases h <;> subst code <;> exact .of_encode rfl

theorem decodedFrom_frameByte {c : Config} {k : Nat} {b : Byte} {i : Instr} (h : decodeFrameByte c k b = .ok i) :
    DecodedFrom c (.wireFrame k b) i := by
  unfold decodeFrameByte at h
  split_ifs at h with hL hk <;> cases h
  · exact .of_encode (i := .frameLed k b) (decide_eq_true hL)
  · exact .of_encode (i := .frameSpd k b) (by simp [Instr.wellFormed, hk, not_lt.1 hL])

theorem decodedFrom_resyncByte (c : Config) (b : Byte) : DecodedFrom c (.wireResync b) (decodeResyncByte c b) := by
  unfold decodeResyncByte
  split_ifs with h
  · exact h ▸ .of_encode (i := .delim) rfl
  · exact .of_encode (i := .skip b) (decide_eq_true h)

theorem decodedFrom_bank {c : Config} {code : BankCode} {n : Nat} {v : Option BankValue} {i : Instr}
    (h : decodeBank c code n v = .ok i) : DecodedFrom c (.subBank code n v) i := by
  unfold decodeBank at h
  split_ifs at h with hn
  cases hw : bankIsWrite code <;> cases v <;> simp only [hw] at h
  case false.none =>
    cases h
    exact .of_format (decide_eq_true hn) rfl (.inr rfl)
  case true.some x =>
    split_ifs at h with hsel
    cases h
    exact .of_format (decide_eq_true (hsel ▸ hn)) rfl (.inr rfl)
  all_goals cases h

/-- What the decoder accepts, by the form of the word. -/
theorem decodedFrom_of_decode {c : Config} {w : OpWord} {i : Instr} (h : decode c w = .ok i) : DecodedFrom c w i := by
  cases w with
  | ev w => cases h; exact decodedFrom_event c w
  | int code => exact decodedFrom_phase h
  | wireFrame k b => exact decodedFrom_frameByte h
  | wireResync b => cases h; exact decodedFrom_resyncByte c b
  | subLookup code => cases h; exact .of_format rfl rfl (.inr rfl)
  | subServo w i =>
    simp only [decode] at h
    split_ifs at h with _ hi
    cases h; exact .of_format (decide_eq_true hi) rfl (.inr rfl)
  | subLed w j =>
    simp only [decode] at h
    split_ifs at h with _ hj
    cases h; exact .of_format (decide_eq_true hj) rfl (.inr rfl)
  | subDecode code raw =>
    simp only [decode] at h
    split_ifs at h with _ hl
    cases h; exact .of_format (decide_eq_true hl) rfl (.inr rfl)
  | subBank code n v => exact decodedFrom_bank h

/-- Settles O39: the round trip is O38's, for an operation that `decodedFrom_of_decode` shows well formed. -/
theorem decodedOperationsAreWellFormed : Obligations.DecodedOperationsAreWellFormed := by
  intro c w i h
  obtain ⟨hwf, hformat, hcanonical⟩ := decodedFrom_of_decode h
  exact ⟨hwf, decodeOfEncodeIsTheOperation c i hwf, hformat, hcanonical⟩

/-- The mask of R81's match and mask keeps the whole of `kind`. -/
theorem eventKind_and_mask (w : EventWord) : eventKind (w &&& 0x300#10) = eventKind w := by
  unfold eventKind
  rw [BitVec.extractLsb'_and]
  exact BitVec.and_allOnes

theorem eventKind_of_mask {w : EventWord} {k : BitVec 2} (h : w &&& 0x300#10 = eventWord k 0) : eventKind w = k := by
  rw [← eventKind_and_mask, h, eventKind_eventWord]

/-- Settles O40: the kind of a masked word is the word's own, and RXPUSH's `data` is the low byte. -/
theorem eventWordsFollowMatchAndMask : Obligations.EventWordsFollowMatchAndMask := by
  intro c w
  have hdata : eventData w = w.setWidth 8 := (BitVec.setWidth_eq_extractLsb' (by decide)).symm
  refine ⟨fun h => ?idle, fun h => ?rxpush, fun h => ?tick, fun h => ?reset⟩
  case idle => simp [decode, decodeEvent, eventKind_of_mask (k := 0b00#2) h]
  case rxpush => simp [decode, decodeEvent, eventKind_of_mask (k := 0b01#2) h, hdata]
  case tick => simp [decode, decodeEvent, eventKind_of_mask (k := 0b10#2) h]
  case reset => simp [decode, decodeEvent, eventKind_of_mask (k := 0b11#2) h]

/-- Settles O41: each word is decoded by evaluation. -/
theorem wordsWrittenOutDecode : Obligations.WordsWrittenOutDecode :=
  ⟨rfl, rfl, rfl, rfl, rfl, rfl, rfl, rfl, rfl, rfl, rfl, rfl, rfl, rfl⟩

end Sys2Proof

/-! TICK (R150 to R160): its state in closed form, and the course of one servo channel under one TICK and under many. -/

namespace Sys2Proof.Machine

/-- The state after a TICK of arrays of the configured sizes (R150). -/
def afterTick (s : State) : State :=
  { s with
    position := (List.range s.config.S).map fun i => (servoAfter s i).1
    direction := (List.range s.config.S).map fun i => (servoAfter s i).2
    out := s.out ++ (List.range s.config.S).map (fun i => .servo i (servoAfter s i).1) ++
      (List.range s.config.L).map (fun j => .pwm j (s.brightness.getD j 0))
    servoOut := (List.range s.config.S).map fun i => some (servoAfter s i).1
    ledOut := (List.range s.config.L).map fun j => some (s.brightness.getD j 0) }

/-- TICK completes where the phase enables it: the converse of `execTick_next`. -/
theorem execTick_eq {s : State} (hs : ArraysSized s) (hen : tickEnabled s = true) : execTick s = .next (afterTick s) := by
  rw [execTick, if_pos hen, tickLoops_eq hs, afterTick]

theorem execTick_eq_afterTick {s t : State} (hs : ArraysSized s) (h : execTick s = .next t) : t = afterTick s := by
  rw [execTick_eq hs (execTick_next h).1] at h
  cases h; rfl

theorem execTick_held {s : State} (h : tickEnabled s = false) : execTick s = .fault .tickHeld := by
  rw [execTick, h]; rfl

theorem arraysSized_afterTick {s : State} (hs : ArraysSized s) : ArraysSized (afterTick s) := by
  obtain ⟨-, -, hc, hb, -, -⟩ := hs
  simp [ArraysSized, afterTick, hc, hb]

/-- The phases that enable TICK (R64, R65). -/
theorem tickEnabled_iff (s : State) :
    tickEnabled s = true ↔ s.phase = .waitFrame ∨ (s.phase = .resync ∧ s.config.tickInResync = true) := by
  cases h : s.phase <;> simp [tickEnabled, h]

theorem servoAfter_eq {s : State} {i : Nat} {pos : Int} {dir : Bool} {code : Byte}
    (hp : s.position[i]? = some pos) (hd : s.direction[i]? = some dir) (hc : s.speedCode[i]? = some code) :
    servoAfter s i = reflect s.config dir (movedPosition dir pos (tableEntry s.config code)) := by
  simp [servoAfter, List.getD_eq_getElem?_getD, hp, hd, hc]

/-- TICK gives a servo channel what SERVO_STEP of that channel alone gives it. -/
theorem servoStep_eq_servoAfter {s : State} {i : Nat} (hs : ArraysSized s) (hi : i < s.config.S) :
    servoStep i s = .next { s with
      position := s.position.set i (servoAfter s i).1
      direction := s.direction.set i (servoAfter s i).2
      out := s.out ++ [.servo i (servoAfter s i).1]
      servoOut := s.servoOut.set i (some (servoAfter s i).1) } := by
  obtain ⟨hp, hd, hc, -, -, -⟩ := hs
  have p := List.getElem?_eq_getElem (hp ▸ hi)
  have d := List.getElem?_eq_getElem (hd ▸ hi)
  have c := List.getElem?_eq_getElem (hc ▸ hi)
  rw [servoStep_eq p d c, servoAfter_eq p d c]

/-- Settles O4: TICK's state is `afterTick`, whose channels are those of SERVO_STEP and of LED_EMIT. -/
theorem tickStepsEveryServoAndEmitsEveryLed : Obligations.TickStepsEveryServoAndEmitsEveryLed := by
  refine ⟨fun s hs hen => ?enabled, fun s hheld => execTick_held ?held⟩
  case held =>
    rcases hheld with h | h | h | ⟨h, hcfg⟩ <;> simp [tickEnabled, *]
  obtain ⟨hp, hd, -, hb, -, -⟩ := id hs
  refine ⟨afterTick s, (List.range s.config.S).map (fun i => .servo i (servoAfter s i).1) ++
    (List.range s.config.L).map (fun j => .pwm j (s.brightness.getD j 0)), execTick_eq hs ((tickEnabled_iff s).2 hen),
    by simp [afterTick], arraysSized_afterTick hs, by simp, fun i hi => ?servo, fun j hj => ?led⟩
  case servo =>
    refine ⟨_, (servoAfter s i).1, servoStep_eq_servoAfter hs hi, ?_, ?_, ?_, ?_, ?_⟩ <;>
      simp [afterTick, hi, hp, hd]
  case led =>
    refine ⟨s.brightness.getD j 0, ?_, ?_, ?_⟩ <;> simp [afterTick, hj, hb]

/-- Settles O5: the new events of `afterTick`, in its own order. -/
theorem tickWritesServosThenLedsAscending : Obligations.TickWritesServosThenLedsAscending := by
  intro s t hs h
  obtain rfl := execTick_eq_afterTick hs h
  exact ⟨fun i => (servoAfter s i).1, fun j => s.brightness.getD j 0, rfl⟩

/-! ### One servo channel under TICK -/

/-- TICK is enabled and servo channel `i` holds the position and direction `r` and the speed code `code`. -/
structure ServoAt (c : Config) (i : Nat) (code : Byte) (r : Int × Bool) (s : State) : Prop where
  config : s.config = c
  sized : ArraysSized s
  enabled : tickEnabled s = true
  position : s.position[i]? = some r.1
  direction : s.direction[i]? = some r.2
  speedCode : s.speedCode[i]? = some code

/-- A TICK moves the channel by R151, and leaves TICK enabled. -/
theorem ServoAt.tick {c : Config} {i : Nat} {code : Byte} {pos : Int} {dir : Bool} {s : State}
    (h : ServoAt c i code (pos, dir) s) :
    ∃ t, exec .tick s = .next t ∧
      ServoAt c i code (reflect c dir (movedPosition dir pos (tableEntry c code))) t := by
  obtain ⟨rfl, hs, hen, hp, hd, hc⟩ := h
  have hi : i < s.config.S := hs.1 ▸ (List.getElem?_eq_some_iff.1 hp).1
  have hafter := servoAfter_eq hp hd hc
  exact ⟨afterTick s, execTick_eq hs hen, rfl, arraysSized_afterTick hs, hen, by simp [afterTick, hi, hafter],
    by simp [afterTick, hi, hafter], hc⟩

/-- What a TICK leaves in the registers of a channel, once the reflection's answer is known. -/
theorem ServoAt.tick_registers {c : Config} {i : Nat} {code : Byte} {pos pos' : Int} {dir dir' : Bool} {s : State}
    (h : ServoAt c i code (pos, dir) s)
    (hr : reflect c dir (movedPosition dir pos (tableEntry c code)) = (pos', dir')) :
    ∃ t, exec .tick s = .next t ∧ t.position[i]? = some pos' ∧ t.direction[i]? = some dir' := by
  obtain ⟨t, ht, h'⟩ := h.tick
  rw [hr] at h'
  exact ⟨t, ht, h'.position, h'.direction⟩

/-- Within the bounds the reflection keeps the value, and toggles the flag exactly on a bound. -/
theorem reflect_of_within {c : Config} {p : Int} (dir : Bool) (hc : c.minPos < c.maxPos) (hmin : c.minPos ≤ p)
    (hmax : p ≤ c.maxPos) : reflect c dir p = (p, if p = c.minPos ∨ p = c.maxPos then !dir else dir) := by
  rcases hmin.eq_or_lt with rfl | hlow
  · rw [reflect_low dir le_rfl, if_pos (.inl rfl)]
  rcases hmax.eq_or_lt with rfl | hhigh
  · rw [reflect_high dir hc le_rfl, if_pos (.inr rfl)]
  · rw [reflect_between dir hlow hhigh, if_neg (by omega)]

theorem movedPosition_zero (dir : Bool) (p : Int) : movedPosition dir p 0 = p := by
  cases dir
  · exact Int.add_zero p
  · exact Int.sub_zero p

/-- Settles O12: with no movement the reflection sees the position itself. -/
theorem tickWithZeroDeltaTogglesOnTheBounds : Obligations.TickWithZeroDeltaTogglesOnTheBounds := by
  intro s i pos dir code hs hb hen hp hd hc hzero hmin hmax
  have hat : ServoAt s.config i code (pos, dir) s := ⟨rfl, hs, hen, hp, hd, hc⟩
  refine hat.tick_registers ?_
  rw [hzero, movedPosition_zero, reflect_of_within dir hb hmin hmax]

/-- Settles O13: the first two moved values do not exceed MIN_POS, the third lies between the bounds. -/
theorem firstTicksAfterResetStayOnMinPos : Obligations.FirstTicksAfterResetStayOnMinPos := by
  intro s i code hs hb hen hc
  have hat : ∀ {pos dir}, s.position[i]? = some pos → s.direction[i]? = some dir →
      ServoAt s.config i code (pos, dir) s := fun hp hd => ⟨rfl, hs, hen, hp, hd, hc⟩
  refine ⟨fun hp hd hle => ?first, fun hp hd => ?second, fun hp hd hpos hlt => ?third⟩
  case first => exact (hat hp hd).tick_registers (reflect_low INC (by simpa using hle))
  case second => exact (hat hp hd).tick_registers (reflect_low DEC (by simp))
  case third => exact (hat hp hd).tick_registers (reflect_between INC (by simpa using hpos) hlt)

/-- Settles O14: within the bounds the table's greatest step leads at most DELTA_MAX beyond them; before the first TICK
the position is 0 and moves up. -/
theorem positionsNeverWrap : Obligations.PositionsNeverWrap := by
  rintro s i pos dir code hinv ⟨-, hhigh, hlow⟩ hp hd -
  have hbounds : s.config.minPos < s.config.maxPos := hinv.valid.2.1
  have hdelta : (tableEntry s.config code : Int) ≤ s.config.deltaMax := mod_cast tableEntry_le_deltaMax s.config code
  have hmem := List.mem_of_getElem? hp
  unfold Config.FitsPos
  generalize (2 : Int) ^ (s.config.posW - 1) = bound at *
  rcases hinv.positions with hwithin | ⟨-, hzero, hinc⟩
  case inl =>
    obtain ⟨hmin, hmax⟩ := hwithin pos hmem
    cases dir
    · rw [movedPosition_inc]; omega
    · rw [movedPosition_dec]; omega
  case inr =>
    obtain rfl : pos = 0 := hzero pos hmem
    obtain rfl : dir = INC := hinc dir (List.mem_of_getElem? hd)
    rw [movedPosition_inc]; omega

theorem getElem?_map_range_congr {α : Type} {f g : Nat → α} {i : Nat} (n : Nat) (h : f i = g i) :
    ((List.range n).map f)[i]? = ((List.range n).map g)[i]? := by
  rcases Nat.lt_or_ge i n with hi | hi <;> simp [hi, h]

/-- Settles O16: `servoAfter` reads the configuration and the three registers of its own channel only. -/
theorem tickKeepsServoChannelsIndependent : Obligations.TickKeepsServoChannelsIndependent := by
  intro s s' t t' i hs hs' hcfg hp hd hc h h'
  obtain rfl := execTick_eq_afterTick hs h
  obtain rfl := execTick_eq_afterTick hs' h'
  have hafter : servoAfter s i = servoAfter s' i := by
    simp only [servoAfter, List.getD_eq_getElem?_getD, hcfg, hp, hd, hc]
  simp only [afterTick, hcfg]
  exact ⟨getElem?_map_range_congr _ (congrArg _ hafter), getElem?_map_range_congr _ (congrArg _ hafter),
    getElem?_map_range_congr _ (congrArg (fun r => some r.1) hafter)⟩

/-- Settles O17: what each of the three operations leaves, from their closed forms. -/
theorem stepperOperationsFrame : Obligations.StepperOperationsFrame := by
  refine ⟨fun s t i hi h => ?all, fun s t n h => ?servo, fun s t n h => ?led⟩
  case all =>
    rcases hi with rfl | ⟨n, rfl⟩ | ⟨n, rfl⟩
    · rw [(execTick_next h).2]; simp
    · rw [servoStep_rest h]; simp
    · rw [ledEmit_rest h]; simp
  case servo =>
    obtain ⟨pos, dir, code, hp, hd, hc⟩ := servoStep_next h
    cases (servoStep_eq hp hd hc).symm.trans h
    exact ⟨rfl, fun k hk => ⟨List.getElem?_set_ne hk.symm, List.getElem?_set_ne hk.symm, List.getElem?_set_ne hk.symm⟩⟩
  case led =>
    obtain ⟨v, hv⟩ := ledEmit_next h
    cases (ledEmit_eq hv).symm.trans h
    exact ⟨rfl, rfl, rfl, fun k hk => List.getElem?_set_ne hk.symm⟩

/-! ### The sweep with a constant step (R159) -/

/-- `k` TICKs complete, and end in a state of which `P` holds. -/
def AfterTicks (k : Nat) (s : State) (P : State → Prop) : Prop :=
  ∃ t, execAll (List.replicate k .tick) s = .next t ∧ P t

theorem AfterTicks.add {m n : Nat} {s : State} {P Q : State → Prop} (h : AfterTicks m s P)
    (hPQ : ∀ t, P t → AfterTicks n t Q) : AfterTicks (m + n) s Q := by
  obtain ⟨t, ht, hP⟩ := h
  obtain ⟨u, hu, hQ⟩ := hPQ t hP
  exact ⟨u, by rw [List.replicate_add, execAll_append, ht, andThen_next, hu], hQ⟩

theorem ServoAt.afterTick_one {c : Config} {i : Nat} {code : Byte} {pos : Int} {dir : Bool} {s : State}
    (h : ServoAt c i code (pos, dir) s) :
    AfterTicks 1 s (ServoAt c i code (reflect c dir (movedPosition dir pos (tableEntry c code)))) := by
  obtain ⟨t, ht, h'⟩ := h.tick
  exact ⟨t, by simp [ht], h'⟩

/-- The position at a distance `x` from the bound where a sweep in direction `dir` begins: from MIN_POS with INC, from
MAX_POS with DEC. -/
def sweepPos (c : Config) (dir : Bool) (x : Int) : Int :=
  if dir = DEC then c.maxPos - x else c.minPos + x

theorem movedPosition_sweepPos (c : Config) (dir : Bool) (x : Int) (d : Nat) :
    movedPosition dir (sweepPos c dir x) d = sweepPos c dir (x + d) := by
  cases dir
  · exact Int.add_assoc ..
  · exact Int.sub_sub ..

/-- Short of the far bound a sweep goes on. -/
theorem reflect_sweepPos_lt {c : Config} (dir : Bool) {x : Int} (h0 : 0 < x) (hx : x < c.maxPos - c.minPos) :
    reflect c dir (sweepPos c dir x) = (sweepPos c dir x, dir) := by
  apply reflect_between <;> cases dir <;> simp [sweepPos] <;> omega

/-- At the far bound, or beyond it, the sweep in the other direction begins. -/
theorem reflect_sweepPos_le {c : Config} (dir : Bool) {x : Int} (hc : c.minPos < c.maxPos)
    (hx : c.maxPos - c.minPos ≤ x) : reflect c dir (sweepPos c dir x) = (sweepPos c (!dir) 0, !dir) := by
  cases dir
  · rw [reflect_high] <;> simp [sweepPos] <;> omega
  · rw [reflect_low] <;> simp [sweepPos]; omega

/-- `K = ceil (R / d)`: fewer than `K` steps of `d` stay short of `R`, and `K` steps reach it. -/
theorem ceil_div_spec {R d : Nat} (hd : 0 < d) :
    (∀ k, k < (R + d - 1) / d → k * d < R) ∧ R ≤ (R + d - 1) / d * d := by
  have hceil : ∀ k, (R + d - 1) / d ≤ k ↔ R ≤ k * d := by
    intro k
    rw [← Nat.ceilDiv_eq_add_pred_div, ceilDiv_le_iff_le_mul hd, Nat.mul_comm]
  exact ⟨fun k hk => not_le.1 fun h => hk.not_ge ((hceil k).2 h), (hceil _).1 le_rfl⟩

section Sweep
variable {c : Config} {i : Nat} {code : Byte} {dir : Bool} {d K : Nat} {s : State}

/-- Before its last TICK a sweep moves by `d` a TICK in one direction. -/
theorem ServoAt.sweep (h : ServoAt c i code (sweepPos c dir 0, dir) s) (hcode : tableEntry c code = d) (hd : 0 < d)
    {k : Nat} (hshort : ∀ m, m ≤ k → (m * d : Int) < c.maxPos - c.minPos) :
    AfterTicks k s (ServoAt c i code (sweepPos c dir (k * d), dir)) := by
  induction k with
  | zero => exact ⟨s, rfl, by simpa using h⟩
  | succ k ih =>
    refine (ih fun m hm => hshort m (Nat.le_succ_of_le hm)).add fun t ht => ?_
    have hnext := hshort (k + 1) le_rfl
    have hdist : ((k : Int) * d + d) = ((k + 1 : Nat) : Int) * d := by push_cast; ring
    have hstep := ht.afterTick_one
    rwa [hcode, movedPosition_sweepPos, hdist, reflect_sweepPos_lt dir (by positivity) hnext] at hstep

/-- The `K`-th TICK of a sweep ends it on the far bound, where the sweep in the other direction begins. -/
theorem ServoAt.sweep_whole (h : ServoAt c i code (sweepPos c dir 0, dir) s) (hc : c.minPos < c.maxPos)
    (hcode : tableEntry c code = d) (hd : 0 < d)
    (hshort : ∀ k, k < K → (k * d : Int) < c.maxPos - c.minPos) (hreach : c.maxPos - c.minPos ≤ (K * d : Int)) :
    AfterTicks K s (ServoAt c i code (sweepPos c (!dir) 0, !dir)) := by
  cases K with
  | zero => simp at hreach; omega
  | succ k =>
    refine (h.sweep hcode hd fun m hm => hshort m (Nat.lt_succ_of_le hm)).add fun t ht => ?_
    have hdist : ((k : Int) * d + d) = ((k + 1 : Nat) : Int) * d := by push_cast; ring
    have hstep := ht.afterTick_one
    rwa [hcode, movedPosition_sweepPos, hdist, reflect_sweepPos_le dir hc hreach] at hstep

end Sweep

/-- Settles O15: one sweep up, one sweep down, each of `K` TICKs. -/
theorem constantStepSweepsWithPeriodTwoK : Obligations.ConstantStepSweepsWithPeriodTwoK := by
  intro s i code d K hs hb hen hp hdir hc hcode hd hK
  obtain ⟨hshort, hreach⟩ := ceil_div_spec (R := (s.config.maxPos - s.config.minPos).toNat) hd
  rw [← hK] at hshort hreach
  have hR : ((s.config.maxPos - s.config.minPos).toNat : Int) = s.config.maxPos - s.config.minPos :=
    Int.toNat_of_nonneg (by omega)
  have hshort : ∀ k, k < K → (k * d : Int) < s.config.maxPos - s.config.minPos :=
    fun k hk => hR ▸ mod_cast hshort k hk
  have hreach : s.config.maxPos - s.config.minPos ≤ (K * d : Int) := hR ▸ mod_cast hreach
  have up : ServoAt s.config i code (sweepPos s.config INC 0, INC) s :=
    ⟨rfl, hs, hen, by simpa [sweepPos] using hp, hdir, hc⟩
  have top := up.sweep_whole hb hcode hd hshort hreach
  refine ⟨fun k hk => ?climb, fun k hk => ?descend, ?period⟩
  case climb =>
    obtain ⟨t, ht, hat⟩ := up.sweep hcode hd fun m hm => hshort m (hm.trans_lt hk)
    exact ⟨t, ht, hat.position, hat.direction⟩
  case descend =>
    obtain ⟨t, ht, hat⟩ := top.add fun u hu => hu.sweep hcode hd fun m hm => hshort m (hm.trans_lt hk)
    exact ⟨t, ht, hat.position, hat.direction⟩
  case period =>
    obtain ⟨t, ht, hat⟩ := top.add fun u hu => hu.sweep_whole hb hcode hd hshort hreach
    exact ⟨t, Nat.two_mul K ▸ ht, by simpa [sweepPos] using hat.position, hat.direction⟩

end Sys2Proof.Machine

/-! The link protocol (R170 to R181, R202, R243): where each micro-step completes and with which state, the service of one
frame, and the way through RESYNC. -/

namespace Sys2Proof.Machine

/-! ### The operations one by one -/

/-- RXPUSH completes where the buffer has room: the converse of `execRxpush_next`. -/
theorem execRxpush_eq {s : State} (b : Byte) (h : rxHasRoom s = true) :
    execRxpush b s = .next { s with rx := s.rx ++ [b] } :=
  if_pos h

theorem execRxpush_full {s : State} (b : Byte) (h : rxHasRoom s = false) : execRxpush b s = .refused .receiveOverrun := by
  simp [execRxpush, h]

/-- FIRE on a whole frame (R171). -/
theorem execFire_eq {s : State} (hp : s.phase = .waitFrame) (hl : s.config.frameLen ≤ s.rx.length) :
    execFire s = .next { s with phase := .consumeFrame } :=
  (inPhase_of_eq _ hp).trans (if_pos hl)

/-- FIRE waits on a short frame (R57, R171). -/
theorem execFire_wait {s : State} (hp : s.phase = .waitFrame) (hl : s.rx.length < s.config.frameLen) :
    execFire s = .next s :=
  (inPhase_of_eq _ hp).trans (if_neg (Nat.not_le.2 hl))

/-- RESYNC waits while no byte is buffered (R175). -/
theorem execResync_wait {s : State} (hp : s.phase = .resync) (hrx : s.rx = []) : execResync s = .next s := by
  rw [execResync, inPhase_of_eq _ hp, rxPop, hrx]

/-- RESYNC pops the oldest byte, and goes by its value (R175). -/
theorem execResync_eq {s : State} {b : Byte} {rest : List Byte} (hp : s.phase = .resync) (hrx : s.rx = b :: rest) :
    execResync s = .next { s with rx := rest, phase := if b = s.config.delim then .waitFrame else .resync } := by
  rw [execResync, inPhase_of_eq _ hp, rxPop, hrx]
  exact congrArg _ (resyncByte_eq b _)

/-- RESYNC ends on the delimiter. -/
theorem execResync_delim {s : State} {rest : List Byte} (hp : s.phase = .resync) (hrx : s.rx = s.config.delim :: rest) :
    execResync s = .next { s with rx := rest, phase := .waitFrame } := by
  rw [execResync_eq hp hrx, if_pos rfl]

/-- RESYNC discards any other byte. -/
theorem execResync_discard {s : State} {b : Byte} {rest : List Byte} (hp : s.phase = .resync) (hrx : s.rx = b :: rest)
    (hb : b ≠ s.config.delim) : execResync s = .next { s with rx := rest } := by
  rw [execResync_eq hp hrx, if_neg hb, ← hp]

/-- DELIM and SKIP are RESYNC on a byte of their class (R87). -/
theorem resyncClass_eq_execResync {s : State} {d : Bool} {b : Byte} {rest : List Byte} (hp : s.phase = .resync)
    (hrx : s.rx = b :: rest) (hd : decide (b = s.config.delim) = d) : resyncClass d b s = execResync s := by
  simp [resyncClass, execResync, inPhase_of_eq _ hp, rxPop, hrx, hd]

/-- Settles O24: FIRE's two branches; WAIT_FRAME enables TICK in either. -/
theorem fireLeavesWaitFrameOnAWholeFrame : Obligations.FireLeavesWaitFrameOnAWholeFrame := by
  refine fun s hp => ⟨execFire_eq hp, fun hl => ⟨execFire_wait hp hl, ?_, (tickEnabled_iff s).2 (.inl hp)⟩⟩
  have hshort : ¬ s.config.frameLen ≤ s.rx.length := Nat.not_le.2 hl
  simp [enabled, linkPending, hshort]

/-- Settles O29: on a byte of its class each is RESYNC, whose state is known. -/
theorem delimAndSkipAreTheTwoResyncs : Obligations.DelimAndSkipAreTheTwoResyncs := by
  refine ⟨fun s rest hp hrx => ?delim, fun s b rest hp hrx hb => ?skip⟩
  case delim =>
    have h : exec .delim s = exec .resync s := resyncClass_eq_execResync hp hrx (decide_eq_true rfl)
    exact ⟨h.trans (execResync_delim hp hrx), h⟩
  case skip =>
    have h : exec (.skip b) s = exec .resync s := resyncClass_eq_execResync hp hrx (decide_eq_false hb)
    exact ⟨h.trans (execResync_discard hp hrx hb), h⟩

/-! ### A turn of the protocol -/

/-- A step whose fetch presents the code of the phase runs the micro-step that the phase selects (R83). -/
theorem step_of_fetch_phase {s u : State} (h : fetch s = (.int s.phase.code, u)) : step s = exec s.phase.microStep u := by
  have hdecode : decode s.config (fetch s).1 = .ok s.phase.microStep := by rw [h]; exact decodePhase_code _
  rw [step_of_decode hdecode, h]

/-- Once the schedule is exhausted every turn is the protocol's. -/
theorem step_nil {s : State} {p : Phase} (h : s.schedule = []) (hp : s.phase = p) : step s = exec p.microStep s :=
  hp ▸ step_of_fetch_phase (fetch_nil h)

theorem step_protocol {s : State} {p : Phase} {rest : List Slot} (h : s.schedule = .protocol :: rest)
    (hp : s.phase = p) : step s = exec p.microStep { s with schedule := rest } := by
  rw [step_of_fetch_phase (fetch_protocol h), hp]

/-- Settles O30: on a partial frame the protocol's turn is FIRE waiting. -/
theorem partialFrameIsNotActedOn : Obligations.PartialFrameIsNotActedOn := by
  intro s hp hl
  refine ⟨fun i hi => ?disabled, fun h => ?exhausted, fun rest h => ?scheduled⟩
  case disabled =>
    have hshort : ¬ s.config.frameLen ≤ s.rx.length := Nat.not_le.2 hl
    rcases hi with rfl | rfl | rfl | rfl | rfl <;> simp [enabled, linkPending, hp, hshort]
  case exhausted =>
    exact (step_nil h hp).trans (execFire_wait hp hl)
  case scheduled =>
    exact (step_protocol h hp).trans (execFire_wait (s := { s with schedule := rest }) hp hl)

/-! ### The service of a frame (R177) -/

/-- FIRE, CONSUME, UPDATE and ECHO take the frame `f` from the link, latch it and write it back. -/
theorem execAll_service {s : State} {f rest : List Byte} (hp : s.phase = .waitFrame) (hl : f.length = s.config.frameLen)
    (hrx : s.rx = f ++ rest) :
    execAll [.fire, .consume, .update, .echo] s = .next { s with
      brightness := f.take s.config.L, speedCode := f.drop s.config.L, tx := s.tx ++ f, rx := rest, frame := none,
      phase := .resync } := by
  have hfire : exec .fire s = .next { s with phase := .consumeFrame } := execFire_eq hp (by simp [hrx, hl])
  have hconsume : exec .consume { s with phase := .consumeFrame } = _ := execConsume_append_eq rfl hl hrx
  rw [execAll_cons, hfire, andThen_next, execAll_cons, hconsume, andThen_next]
  exact execAll_update_echo rfl rfl hl

/-- Settles O31. -/
theorem serviceTakesOneFrame : Obligations.ServiceTakesOneFrame := fun _ _ _ hp hl hrx => execAll_service hp hl hrx

/-- Steps of the protocol, one by one: the micro-step that the phase selects, and what follows it. -/
theorem steps_succ_eq_execAll {n : Nat} {s : State} {p : Phase} {is : List Instr} (hsched : s.schedule = [])
    (hp : s.phase = p) (h : ∀ t, exec p.microStep s = .next t → steps n t = execAll is t) :
    steps (n + 1) s = execAll (p.microStep :: is) s := by
  rw [steps_succ, step_nil hsched hp, execAll_cons]
  cases ht : exec p.microStep s with
  | next t => exact h t ht
  | fault r => rfl
  | refused r => rfl

/-- Left to itself the block makes the four micro-steps of a service in a row. -/
theorem steps_service {s : State} (hsched : s.schedule = []) (hp : s.phase = .waitFrame)
    (hl : s.config.frameLen ≤ s.rx.length) : steps 4 s = execAll [.fire, .consume, .update, .echo] s := by
  refine steps_succ_eq_execAll hsched hp fun t ht => ?_
  cases (execFire_eq hp hl).symm.trans ht
  refine steps_succ_eq_execAll (p := .consumeFrame) (by exact hsched) rfl fun t ht => ?_
  obtain ⟨-, -, rfl⟩ := execConsume_next ht
  refine steps_succ_eq_execAll (p := .updateState) (by exact hsched) rfl fun t ht => ?_
  obtain ⟨-, f, -, -, rfl⟩ := execUpdate_next ht
  exact steps_succ_eq_execAll (p := .echo) (by exact hsched) rfl fun t _ => rfl

/-- Left to itself in RESYNC the block discards one byte a turn, short of a delimiter (R175, R202). -/
theorem steps_discard {n : Nat} {s : State} (hsched : s.schedule = []) (hp : s.phase = .resync)
    (hb : ∀ b ∈ s.rx.take n, b ≠ s.config.delim) : steps n s = .next { s with rx := s.rx.drop n } := by
  induction n generalizing s with
  | zero => rfl
  | succ n ih =>
    rw [steps_succ, step_nil hsched hp]
    cases hrx : s.rx with
    | nil =>
      have hwait : exec .resync s = .next s := execResync_wait hp hrx
      rw [Phase.microStep, hwait, andThen_next, ih hsched hp (by simp [hrx]), hrx, List.drop_nil, List.drop_nil]
    | cons b rest =>
      rw [hrx, List.take_succ_cons, List.forall_mem_cons] at hb
      obtain ⟨hfirst, hrest⟩ := hb
      have hdiscard : exec .resync s = .next { s with rx := rest } := execResync_discard hp hrx hfirst
      rw [Phase.microStep, hdiscard, andThen_next]
      exact ih (s := { s with rx := rest }) hsched hp hrest

/-- Settles O33: none of the discarded bytes is a delimiter. -/
theorem missingDelimiterStallsTheProtocol : Obligations.MissingDelimiterStallsTheProtocol :=
  fun _ _ hsched hp hb => steps_discard hsched hp fun b hmem => hb b (List.mem_of_mem_take hmem)

/-- Settles O32: the service, the bytes short of the delimiter, and the delimiter. -/
theorem exchangeRunsToItsDelimiter : Obligations.ExchangeRunsToItsDelimiter := by
  intro s f junk rest hsched hp hl hjunk hrx
  rw [List.append_assoc] at hrx
  have hwhole : s.config.frameLen ≤ s.rx.length := by simp [hrx, hl, Config.frameLen]
  have hdiscard := steps_discard (n := junk.length) (s := { s with
    brightness := f.take s.config.L, speedCode := f.drop s.config.L, tx := s.tx ++ f
    rx := junk ++ s.config.delim :: rest, frame := none, phase := .resync }) hsched rfl (by simpa using hjunk)
  rw [List.drop_left] at hdiscard
  rw [steps_add, steps_service hsched hp hwhole, execAll_service hp hl hrx, andThen_next, steps_add, hdiscard,
    andThen_next, steps_succ, step_nil (p := .resync) (by exact hsched) rfl]
  exact andThen_eq_next.2 ⟨_, execResync_delim rfl rfl, rfl⟩

/-! ### Realignment (R243) -/

/-- Pushes complete as long as the buffer holds the bytes. -/
theorem execAll_rxpush {n : Nat} {s : State} (b : Byte) (hroom : ∀ cap ∈ s.config.rxCap.toList, s.rx.length + n ≤ cap) :
    execAll (List.replicate n (.rxpush b)) s = .next { s with rx := s.rx ++ List.replicate n b } := by
  induction n generalizing s with
  | zero => simp
  | succ n ih =>
    have hpush : exec (.rxpush b) s = .next { s with rx := s.rx ++ [b] } :=
      execRxpush_eq b ((rxHasRoom_iff s).2 fun cap hcap => by have := hroom cap hcap; omega)
    rw [List.replicate_succ, execAll_cons, hpush, andThen_next, ih fun cap hcap => ?room]
    case room => simpa [Nat.add_right_comm, Nat.add_assoc] using hroom cap hcap
    simp [List.replicate_succ]

/-- One delimiter ends a RESYNC with nothing buffered. -/
theorem execAll_delim_resync {s : State} (hv : s.config.Valid) (hp : s.phase = .resync) (hrx : s.rx = []) :
    execAll [.rxpush s.config.delim, .resync] s = .next { s with phase := .waitFrame } := by
  obtain ⟨hframe, -, hcap, -⟩ := hv
  have hpush : exec (.rxpush s.config.delim) s = .next { s with rx := [s.config.delim] } := by
    have hroom : rxHasRoom s = true :=
      (rxHasRoom_iff s).2 fun cap hc => by rw [hrx]; exact hframe.trans (hcap cap hc)
    have hpush := execRxpush_eq s.config.delim hroom
    rwa [hrx] at hpush
  have hresync : exec .resync { s with rx := [s.config.delim] } = .next { s with rx := [], phase := .waitFrame } :=
    execResync_delim hp rfl
  rw [execAll_cons, hpush, andThen_next, execAll_cons, hresync, andThen_next, execAll_nil, ← hrx]

/-- Settles O34: the delimiters that complete the frame are pushed, the frame is served, and one delimiter ends RESYNC. -/
theorem delimitersRealignTheBlock : Obligations.DelimitersRealignTheBlock := by
  refine ⟨fun s hv hp hrx => execAll_delim_resync hv hp hrx, fun s hv hp hshort => ?_⟩
  have hroom : ∀ cap ∈ s.config.rxCap.toList, s.rx.length + (s.config.frameLen - s.rx.length) ≤ cap := fun cap hc => by
    rw [Nat.add_sub_cancel' hshort.le]; exact hv.2.2.1 cap hc
  have hservice := execAll_service
    (s := { s with rx := s.rx ++ List.replicate (s.config.frameLen - s.rx.length) s.config.delim })
    (f := s.rx ++ List.replicate (s.config.frameLen - s.rx.length) s.config.delim) (rest := [])
    hp (by simp [Nat.add_sub_cancel' hshort.le]) (by simp)
  have hops : ([.fire, .consume, .update, .echo, .rxpush s.config.delim, .resync] : List Instr) =
    [.fire, .consume, .update, .echo] ++ [.rxpush s.config.delim, .resync] := rfl
  rw [hops, execAll_append, execAll_rxpush _ hroom, andThen_next, execAll_append, hservice, andThen_next]
  exact ⟨_, execAll_delim_resync hv rfl rfl, rfl, rfl, rfl, rfl⟩

end Sys2Proof.Machine

/-! The invariant (R38): it holds at reset, every operation that a step can run keeps it, and from it every step but a push
into a full buffer completes. -/

namespace Sys2Proof.Machine

/-! ### The output history and the latches (R31) -/

theorem lastServo_append (i : Nat) (es es' : List OutEvent) :
    lastServo i (es ++ es') = (lastServo i es').or (lastServo i es) := by
  induction es with
  | nil => simp [lastServo]
  | cons e es ih => cases e <;> simp [lastServo, ih, Option.or_assoc]

theorem lastPwm_append (j : Nat) (es es' : List OutEvent) :
    lastPwm j (es ++ es') = (lastPwm j es').or (lastPwm j es) := by
  induction es with
  | nil => simp [lastPwm]
  | cons e es ih => cases e <;> simp [lastPwm, ih, Option.or_assoc]

theorem lastServo_map_pwm (i : Nat) (g : Nat → Byte) (ns : List Nat) :
    lastServo i (ns.map fun j => .pwm j (g j)) = none := by
  induction ns with
  | nil => rfl
  | cons n ns ih => exact ih

theorem lastPwm_map_servo (j : Nat) (f : Nat → Int) (ns : List Nat) :
    lastPwm j (ns.map fun i => .servo i (f i)) = none := by
  induction ns with
  | nil => rfl
  | cons n ns ih => exact ih

theorem lastServo_map_servo {i : Nat} (f : Nat → Int) {ns : List Nat} (hi : i ∈ ns) :
    lastServo i (ns.map fun k => .servo k (f k)) = some (f i) := by
  induction ns using List.reverseRecOn with
  | nil => cases hi
  | append_singleton ns n ih =>
    by_cases hn : n = i
    · simp [lastServo_append, lastServo, hn]
    · simp [lastServo_append, lastServo, hn, ih (by simpa [Ne.symm hn] using hi)]

theorem lastPwm_map_pwm {j : Nat} (g : Nat → Byte) {ns : List Nat} (hj : j ∈ ns) :
    lastPwm j (ns.map fun k => .pwm k (g k)) = some (g j) := by
  induction ns using List.reverseRecOn with
  | nil => cases hj
  | append_singleton ns n ih =>
    by_cases hn : n = j
    · simp [lastPwm_append, lastPwm, hn]
    · simp [lastPwm_append, lastPwm, hn, ih (by simpa [Ne.symm hn] using hj)]

theorem getElem?_map_range {α : Type} (f : Nat → α) {n i : Nat} (hi : i < n) : ((List.range n).map f)[i]? = some (f i) := by
  rw [List.getElem?_map, List.getElem?_range hi, Option.map_some]

/-- After a TICK every latch holds the event that the TICK wrote to its channel. -/
theorem latchesFollowOut_afterTick (s : State) : LatchesFollowOut (afterTick s) := by
  refine ⟨fun i (hi : i < s.config.S) => ?servo, fun j (hj : j < s.config.L) => ?led⟩
  case servo =>
    have hlast : lastServo i (afterTick s).out = some (servoAfter s i).1 := by
      rw [afterTick, lastServo_append, lastServo_map_pwm, Option.none_or, lastServo_append,
        lastServo_map_servo (fun k => (servoAfter s k).1) (List.mem_range.2 hi), Option.some_or]
    rw [hlast]
    exact getElem?_map_range _ hi
  case led =>
    have hlast : lastPwm j (afterTick s).out = some (s.brightness.getD j 0) := by
      rw [afterTick, lastPwm_append, lastPwm_map_pwm (fun k => s.brightness.getD k 0) (List.mem_range.2 hj),
        Option.some_or]
    rw [hlast]
    exact getElem?_map_range _ hj

/-- The events of a TICK name channels that exist, with servo values within the bounds. -/
theorem eventsInRange_afterTick {s : State} (hb : s.config.minPos < s.config.maxPos) (h : EventsInRange s) :
    EventsInRange (afterTick s) := by
  intro e he
  simp only [afterTick, List.append_assoc, List.mem_append, List.mem_map, List.mem_range] at he
  rcases he with he | ⟨i, hi, rfl⟩ | ⟨j, hj, rfl⟩
  · exact h e he
  · have := reflect_within (s.direction.getD i INC) (movedPosition (s.direction.getD i INC) (s.position.getD i 0)
      (tableEntry s.config (s.speedCode.getD i 0))) hb
    simpa [eventInRange, afterTick, hi, servoAfter] using this
  · simpa [eventInRange, afterTick] using hj

/-- After a TICK every position is within the bounds. -/
theorem positionsBounded_afterTick {s : State} (hb : s.config.minPos < s.config.maxPos) :
    PositionsBounded (afterTick s) := by
  refine .inl fun p hp => ?_
  obtain ⟨i, -, rfl⟩ := List.mem_map.1 hp
  exact reflect_within _ _ hb

/-- A TICK adds one event a channel to `out`. -/
theorem length_out_afterTick (s : State) : (afterTick s).out.length = s.out.length + s.config.frameLen := by
  simp [afterTick, Config.frameLen, Nat.add_assoc, Nat.add_comm]

/-! ### The frame buffer (R27, R38 (b)) -/

theorem frameHeld_of_empty {s : State} (hf : s.frame = none) (hu : s.phase ≠ .updateState) (he : s.phase ≠ .echo) :
    FrameHeld s := by
  simp [FrameHeld, hu, he, hf]

theorem frameHeld_of_frame {s : State} {f : List Byte} (hf : s.frame = some f) (hl : f.length = s.config.frameLen)
    (hp : s.phase = .updateState ∨ s.phase = .echo) : FrameHeld s := by
  simp [FrameHeld, hp, hf, hl]

theorem Inv.frame_empty {s : State} (h : Inv s) (hu : s.phase ≠ .updateState) (he : s.phase ≠ .echo) :
    s.frame = none := by
  have hf := h.frame
  simpa [FrameHeld, hu, he] using hf

theorem Inv.frame_whole {s : State} (h : Inv s) (hp : s.phase = .updateState ∨ s.phase = .echo) :
    ∃ f, s.frame = some f ∧ f.length = s.config.frameLen := by
  have hf := h.frame
  simpa [FrameHeld, hp] using hf

/-! ### Each operation keeps the invariant -/

/-- RESET establishes the invariant, whatever the state before (R37). -/
theorem inv_resetAll {s : State} (hv : s.config.Valid) : Inv (resetAll s) where
  valid := hv
  sized := by simp [ArraysSized, hv.2.2.2]
  frame := frameHeld_of_empty rfl nofun nofun
  rx := ⟨nofun, fun _ _ => Nat.zero_le _⟩
  histories := by simp [HistoriesWhole]
  positions := .inr ⟨rfl, fun _ hp => List.eq_of_mem_replicate hp, fun _ hd => List.eq_of_mem_replicate hd⟩
  events := nofun
  latches := ⟨fun _ hi => List.getElem?_replicate_of_lt hi, fun _ hj => List.getElem?_replicate_of_lt hj⟩

/-- Settles O46: RESET leaves the reset state as it is. -/
theorem resetMeetsTheInvariant : Obligations.ResetMeetsTheInvariant := by
  have hreset : ∀ c : Config, c.Valid → Inv (State.resetOf c) := fun c hv => inv_resetAll (s := State.resetOf c) hv
  exact ⟨hreset, hreset _ (by decide)⟩

section
variable {s t : State}

/-- The turns to come are no part of the invariant. -/
theorem Inv.fetch (h : Inv s) : Inv (Machine.fetch s).2 := by
  rw [fetch_snd]
  exact ⟨h.valid, h.sized, h.frame, h.rx, h.histories, h.positions, h.events, h.latches⟩

theorem Inv.rxpush {b : Byte} (h : Inv s) (ht : execRxpush b s = .next t) : Inv t := by
  obtain ⟨hroom, rfl⟩ := execRxpush_next ht
  have hrx : RxBounded { s with rx := s.rx ++ [b] } := by
    obtain ⟨hframe, -⟩ := h.rx
    refine ⟨fun hp => (hframe hp).trans (by simp), fun cap hcap => ?_⟩
    simpa using (rxHasRoom_iff s).1 hroom cap hcap
  exact ⟨h.valid, h.sized, h.frame, hrx, h.histories, h.positions, h.events, h.latches⟩

theorem Inv.tick (h : Inv s) (ht : execTick s = .next t) : Inv t := by
  obtain rfl := execTick_eq_afterTick h.sized ht
  have hb : s.config.minPos < s.config.maxPos := h.valid.2.1
  obtain ⟨hbanner, htx, hout⟩ := h.histories
  have hout' : s.config.frameLen ∣ (afterTick s).out.length := by
    rw [length_out_afterTick]; exact hout.add dvd_rfl
  exact ⟨h.valid, arraysSized_afterTick h.sized, h.frame, h.rx, ⟨hbanner, htx, hout'⟩, positionsBounded_afterTick hb,
    eventsInRange_afterTick hb h.events, latchesFollowOut_afterTick s⟩

theorem Inv.fire (h : Inv s) (ht : execFire s = .next t) : Inv t := by
  obtain ⟨hp, ⟨hl, rfl⟩ | ⟨-, rfl⟩⟩ := execFire_next ht
  · have hframe : FrameHeld { s with phase := .consumeFrame } :=
      frameHeld_of_empty (h.frame_empty (by simp [hp]) (by simp [hp])) nofun nofun
    exact ⟨h.valid, h.sized, hframe, ⟨fun _ => hl, h.rx.2⟩, h.histories, h.positions, h.events, h.latches⟩
  · exact h

/-- Taking bytes from the receive buffer keeps it within its capacity. -/
theorem Inv.rxBounded_of_le {rx : List Byte} (h : Inv s) (hl : rx.length ≤ s.rx.length) :
    ∀ cap ∈ s.config.rxCap.toList, rx.length ≤ cap :=
  fun cap hcap => hl.trans (h.rx.2 cap hcap)

theorem Inv.consume (h : Inv s) (ht : execConsume s = .next t) : Inv t := by
  obtain ⟨-, hl, rfl⟩ := execConsume_next ht
  have hcap := h.rxBounded_of_le (rx := s.rx.drop s.config.frameLen) (by simp)
  have hframe := frameHeld_of_frame (s := { s with rx := s.rx.drop s.config.frameLen
                                                   frame := some (s.rx.take s.config.frameLen)
                                                   phase := .updateState })
    rfl (List.length_take_of_le hl) (.inl rfl)
  exact ⟨h.valid, h.sized, hframe, ⟨nofun, hcap⟩, h.histories, h.positions, h.events, h.latches⟩

theorem Inv.update (h : Inv s) (ht : execUpdate s = .next t) : Inv t := by
  obtain ⟨-, f, hf, hl, rfl⟩ := execUpdate_next ht
  obtain ⟨hp, hd, -, -, ho, hled⟩ := h.sized
  have hsized : (f.drop s.config.L).length = s.config.S ∧ (f.take s.config.L).length = s.config.L := by
    simp [hl, Config.frameLen]
  exact ⟨h.valid, ⟨hp, hd, hsized.1, hsized.2, ho, hled⟩, frameHeld_of_frame hf hl (.inr rfl), ⟨nofun, h.rx.2⟩,
    h.histories, h.positions, h.events, h.latches⟩

theorem Inv.echo (h : Inv s) (ht : execEcho s = .next t) : Inv t := by
  obtain ⟨-, f, hf, hl, rfl⟩ := execEcho_next ht
  obtain ⟨hbanner, htx, hout⟩ := h.histories
  have htx' : s.config.frameLen ∣ (s.tx ++ f).length - s.config.banner.length := by
    rw [List.length_append, hl, Nat.sub_add_comm hbanner.length_le]
    exact htx.add dvd_rfl
  exact ⟨h.valid, h.sized, frameHeld_of_empty rfl nofun nofun, ⟨nofun, h.rx.2⟩,
    ⟨hbanner.trans (List.prefix_append _ _), htx', hout⟩, h.positions, h.events, h.latches⟩

/-- RESYNC ends in one of its two phases, with the frame buffer empty as before. -/
theorem Inv.pop_of_empty {rx : List Byte} {p : Phase} (h : Inv s) (hf : s.frame = none) (hl : rx.length ≤ s.rx.length)
    (hp : p = .waitFrame ∨ p = .resync) : Inv { s with rx := rx, phase := p } := by
  have hcap := h.rxBounded_of_le hl
  rcases hp with rfl | rfl <;>
    exact ⟨h.valid, h.sized, frameHeld_of_empty hf nofun nofun, ⟨nofun, hcap⟩, h.histories, h.positions, h.events,
      h.latches⟩

theorem Inv.resync (h : Inv s) (ht : execResync s = .next t) : Inv t := by
  obtain ⟨hp, ⟨-, rfl⟩ | ⟨b, rest, hrx, rfl⟩⟩ := execResync_next ht
  · exact h
  · exact h.pop_of_empty (h.frame_empty (by simp [hp]) (by simp [hp])) (by simp [hrx]) (by split <;> simp)

/-- The micro-step of a phase keeps the invariant. -/
theorem Inv.microStep (p : Phase) (h : Inv s) (ht : exec p.microStep s = .next t) : Inv t := by
  cases p with
  | waitFrame => exact h.fire ht
  | consumeFrame => exact h.consume ht
  | updateState => exact h.update ht
  | echo => exact h.echo ht
  | resync => exact h.resync ht

end

/-- Settles O47, by the operation that the step runs. -/
theorem stepKeepsTheInvariant : Obligations.StepKeepsTheInvariant := by
  intro s t hinv ht
  obtain ⟨i, -, hop, hstep⟩ := step_cases s
  rw [hstep] at ht
  have h := hinv.fetch
  rcases hop with rfl | ⟨b, rfl⟩ | rfl | rfl | rfl
  case inl => cases ht; exact h
  case inr.inl => exact h.rxpush ht
  case inr.inr.inl => exact h.tick ht
  case inr.inr.inr.inl => cases ht; exact inv_resetAll h.valid
  case inr.inr.inr.inr => exact h.microStep _ ht

end Sys2Proof.Machine

/-! What the link's operations leave unchanged (R170 to R175), and which steps commute (R66). -/

namespace Sys2Proof.Machine

/-- Settles O36, by the operation: what its inversion lemma says it writes. -/
theorem linkOperationsFrame : Obligations.LinkOperationsFrame := by
  intro s t i hi h
  rcases hi with rfl | ⟨b, rfl⟩ | rfl | rfl | rfl | rfl | rfl | rfl | ⟨b, rfl⟩
  next => cases h; simp
  next => obtain ⟨-, rfl⟩ := execRxpush_next h; simp
  next => obtain ⟨-, ⟨-, rfl⟩ | ⟨-, rfl⟩⟩ := execFire_next h <;> simp
  next => obtain ⟨-, -, rfl⟩ := execConsume_next h; simp
  next => obtain ⟨-, f, -, -, rfl⟩ := execUpdate_next h; simp
  next => obtain ⟨-, f, -, -, rfl⟩ := execEcho_next h; simp
  next => obtain ⟨-, ⟨-, rfl⟩ | ⟨b, rest, -, rfl⟩⟩ := execResync_next h <;> simp
  next => obtain ⟨-, ⟨-, rfl⟩ | ⟨rest, -, -, rfl⟩⟩ := resyncClass_next h <;> simp
  next =>
    obtain ⟨hp, ⟨-, rfl⟩ | ⟨rest, -, hb, rfl⟩⟩ := resyncClass_next h
    · simp
    · simp [of_decide_eq_false hb, hp]

/-! ### Steps that commute (R66) -/

/-- The link's side that RXPUSH and RESYNC write: the receive buffer and the phase. -/
def withLink (rx : List Byte) (p : Phase) (s : State) : State := { s with rx := rx, phase := p }

theorem servoStep_withLink (rx : List Byte) (p : Phase) (i : Nat) (s : State) :
    servoStep i (withLink rx p s) = andThen (servoStep i s) fun t => .next (withLink rx p t) := by
  simp only [servoStep, withLink, readPosition, readDirection, readSpeedCode]
  cases s.position[i]? <;> cases s.direction[i]? <;> cases s.speedCode[i]? <;> rfl

theorem ledEmit_withLink (rx : List Byte) (p : Phase) (j : Nat) (s : State) :
    ledEmit j (withLink rx p s) = andThen (ledEmit j s) fun t => .next (withLink rx p t) := by
  simp only [ledEmit, withLink, readBrightness]
  cases s.brightness[j]? <;> rfl

/-- A loop commutes with what each of its turns commutes with. -/
theorem forEach_comm {body : Nat → State → StepResult} {g : State → State}
    (hbody : ∀ n s, body n (g s) = andThen (body n s) fun t => .next (g t)) (ns : List Nat) (s : State) :
    forEach body ns (g s) = andThen (forEach body ns s) fun t => .next (g t) := by
  induction ns generalizing s with
  | nil => rfl
  | cons n ns ih =>
    rw [forEach_cons, hbody, andThen_assoc, forEach_cons, andThen_assoc]
    exact congrArg (andThen (body n s)) (funext ih)

/-- TICK reads and writes nothing of the link's side but the phase that enables it. -/
theorem execTick_withLink {rx : List Byte} {p : Phase} {s : State} (hen : tickEnabled s = true)
    (hen' : tickEnabled (withLink rx p s) = true) :
    execTick (withLink rx p s) = andThen (execTick s) fun t => .next (withLink rx p t) := by
  rw [execTick, execTick, if_pos hen, if_pos hen', forEach_comm (servoStep_withLink rx p), andThen_assoc, andThen_assoc]
  exact congrArg _ (funext fun t => forEach_comm (ledEmit_withLink rx p) _ t)

/-- An operation that sets the link's side to the same values before and after a TICK commutes with it. -/
theorem execAll_tick_comm {s : State} {i : Instr} {rx : List Byte} {p : Phase} (hen : tickEnabled s = true)
    (hen' : tickEnabled (withLink rx p s) = true)
    (hi : ∀ u : State, u.config = s.config → u.phase = s.phase → u.rx = s.rx → exec i u = .next (withLink rx p u)) :
    execAll [i, .tick] s = execAll [.tick, i] s := by
  have hafter : ∀ t, exec .tick s = .next t → exec i t = .next (withLink rx p t) := fun t ht => by
    have hrest := (execTick_next ht).2
    exact hi t (by rw [hrest]) (by rw [hrest]) (by rw [hrest])
  have htick : exec .tick (withLink rx p s) = andThen (exec .tick s) fun t => .next (withLink rx p t) :=
    execTick_withLink hen hen'
  simp only [execAll_cons, hi s rfl rfl rfl, andThen_next, htick]
  cases ht : exec .tick s with
  | next t => simp [hafter t ht]
  | fault r => rfl
  | refused r => rfl

/-- RXPUSH before or after a micro-step that keeps the pushed byte at the young end of what it leaves in `rx`. -/
theorem execAll_rxpush_comm {s t t' : State} {b : Byte} {i : Instr} (hroom : rxHasRoom s = true)
    (hi : exec i s = .next t) (hpush : exec i { s with rx := s.rx ++ [b] } = .next t')
    (hcfg : t.config = s.config) (hl : t.rx.length ≤ s.rx.length) (ht : t' = { t with rx := t.rx ++ [b] }) :
    execAll [.rxpush b, i] s = execAll [i, .rxpush b] s ∧ ∃ u, execAll [i, .rxpush b] s = .next u := by
  have hroom' : rxHasRoom t = true :=
    (rxHasRoom_iff t).2 fun cap hcap => hl.trans_lt ((rxHasRoom_iff s).1 hroom cap (hcfg ▸ hcap))
  have hfirst : exec (.rxpush b) s = .next { s with rx := s.rx ++ [b] } := execRxpush_eq b hroom
  have hlast : exec (.rxpush b) t = .next { t with rx := t.rx ++ [b] } := execRxpush_eq b hroom'
  simp [hfirst, hi, hpush, hlast, ht]

theorem fire_enabled {s : State} (h : enabled s .fire = true) :
    s.phase = .waitFrame ∧ s.config.frameLen ≤ s.rx.length := by
  simpa [enabled, linkPending] using h

theorem resync_enabled {s : State} (h : enabled s .resync = true) :
    s.phase = .resync ∧ ∃ b rest, s.rx = b :: rest := by
  obtain ⟨hp, hrx⟩ : s.phase = .resync ∧ s.rx ≠ [] := by simpa [enabled] using h
  exact ⟨hp, List.exists_cons_of_ne_nil hrx⟩

/-- Settles O35: RXPUSH and RESYNC touch the link's side only, TICK no part of it but the phase; and each micro-step takes
its bytes from the old end of `rx`, RXPUSH adds one at the young end. -/
theorem independentStepsCommute : Obligations.IndependentStepsCommute := by
  refine ⟨fun s b hroom hen => ?push_tick, fun s b i hinv hroom hi hen => ?push_micro, fun s hcfg hen => ?resync_tick⟩
  case push_tick =>
    refine execAll_tick_comm (rx := s.rx ++ [b]) (p := s.phase) hen hen fun u hc hp hrx => ?_
    rw [← hp, ← hrx]
    have hroom' : rxHasRoom u = true := (rxHasRoom_iff u).2 (hc ▸ hrx ▸ (rxHasRoom_iff s).1 hroom)
    exact execRxpush_eq b hroom'
  case push_micro =>
    rcases hi with rfl | rfl | rfl | rfl | rfl
    next =>
      obtain ⟨hp, hl⟩ := fire_enabled hen
      exact execAll_rxpush_comm hroom (execFire_eq hp hl) (execFire_eq hp (hl.trans (by simp))) rfl le_rfl rfl
    next =>
      have hp : s.phase = .consumeFrame := of_decide_eq_true hen
      have hl := hinv.rx.1 hp
      refine execAll_rxpush_comm hroom (execConsume_eq hp hl) (execConsume_eq hp (hl.trans (by simp))) rfl (by simp) ?_
      simp [List.take_append_of_le_length hl, List.drop_append_of_le_length hl]
    next =>
      have hp : s.phase = .updateState := of_decide_eq_true hen
      obtain ⟨f, hf, hl⟩ := hinv.frame_whole (.inl hp)
      exact execAll_rxpush_comm hroom (execUpdate_eq hp hf hl) (execUpdate_eq hp hf hl) rfl le_rfl rfl
    next =>
      have hp : s.phase = .echo := of_decide_eq_true hen
      obtain ⟨f, hf, hl⟩ := hinv.frame_whole (.inr hp)
      exact execAll_rxpush_comm hroom (execEcho_eq hp hf hl) (execEcho_eq hp hf hl) rfl le_rfl rfl
    next =>
      obtain ⟨hp, c, rest, hrx⟩ := resync_enabled hen
      refine execAll_rxpush_comm hroom (execResync_eq hp hrx) (execResync_eq (rest := rest ++ [b]) hp ?_) rfl ?_ rfl
      · rw [hrx, List.cons_append]
      · simp [hrx]
  case resync_tick =>
    obtain ⟨hp, c, rest, hrx⟩ := resync_enabled hen
    have hnext : ∀ u : State, u.config = s.config → u.phase = s.phase → u.rx = s.rx →
        exec .resync u = .next (withLink rest (if c = s.config.delim then .waitFrame else .resync) u) := by
      intro u hc hp' hrx'
      rw [← hc]
      exact execResync_eq (hp'.trans hp) (hrx'.trans hrx)
    refine (execAll_tick_comm ((tickEnabled_iff s).2 (.inr ⟨hp, hcfg⟩)) ?_ hnext).symm
    rw [tickEnabled_iff]
    by_cases hb : c = s.config.delim <;> simp [withLink, hb, hcfg]

end Sys2Proof.Machine

/-! The host's events, the speed table, the channel bank and the frame decoder by themselves (R110 to R142, R170, R176,
R230): their states in closed form, their refusals and their frames. -/

namespace Sys2Proof.Machine

/-! ### The host's events -/

/-- Settles O1. -/
theorem idleChangesNothing : Obligations.IdleChangesNothing := fun _ => rfl

/-- Settles O2: room is the whole condition. -/
theorem rxPushAppendsWhileThereIsRoom : Obligations.RxPushAppendsWhileThereIsRoom := by
  refine ⟨fun s b hcap => ?unbounded, fun s b cap hcap hl => ?room, fun s b cap hcap hl => ?full⟩
  case unbounded => exact execRxpush_eq b ((rxHasRoom_iff s).2 (by simp [hcap]))
  case room => exact execRxpush_eq b ((rxHasRoom_iff s).2 (by simpa [hcap] using hl))
  case full => exact execRxpush_full b (by simpa [rxHasRoom, hcap] using hl)

/-- Settles O3. -/
theorem resetPutsEveryComponentAtItsResetValue : Obligations.ResetPutsEveryComponentAtItsResetValue := fun _ => rfl

/-! ### The default table (R111, R112) -/

/-- The default table by its runs, in the order of the keys. -/
theorem defaultTable_getElem (n : Nat) (h : n < 256) :
    Config.defaultTable[n] =
      if n < 24 then 0 else if n < 39 then 1 else if n < 64 then 2 else if n < 105 then 3 else if n < 173 then 4 else 5 := by
  simp only [Config.defaultTable, Config.speedTableRuns, Vector.getElem_mk, List.getElem_toArray, List.flatMap_cons,
    List.flatMap_nil, List.append_nil, List.getElem_append, List.length_replicate, List.getElem_replicate]
  split_ifs <;> omega

theorem tableEntry_default (code : Byte) :
    tableEntry Config.default code =
      if code.toNat < 24 then 0 else if code.toNat < 39 then 1 else if code.toNat < 64 then 2
      else if code.toNat < 105 then 3 else if code.toNat < 173 then 4 else 5 :=
  defaultTable_getElem code.toNat code.isLt

/-- Settles O6: LOOKUP's answer is the entry by definition; the three entries are in the runs of 0, 4 and 5. -/
theorem lookupReturnsTheTableEntry : Obligations.LookupReturnsTheTableEntry := by
  have hlookup : ∀ (s : State) (code : Byte), exec (.lookup code) s =
      .next { s with result := some (.stepMagnitude (s.config.speedTable[code.toNat]'code.isLt)) } := fun _ _ => rfl
  refine ⟨hlookup, fun s htable => ⟨?_, ?_, ?_⟩⟩ <;> rw [hlookup] <;> simp only [htable, defaultTable_getElem] <;> rfl

/-- Settles O7: both parts are read off the runs. -/
theorem defaultTableIsSixRuns : Obligations.DefaultTableIsSixRuns := by
  refine ⟨fun code => ?runs, fun a b hab => ?monotone⟩
  case runs =>
    rw [tableEntry_default]
    split_ifs <;> omega
  case monotone =>
    have hab : a.toNat ≤ b.toNat := hab
    rw [tableEntry_default, tableEntry_default]
    split_ifs <;> omega

/-- The floor of a natural logarithm, from the two powers of `e` that enclose its argument. -/
theorem floor_log_eq {x : ℝ} {n : Nat} (hlo : Real.exp 1 ^ n ≤ x) (hhi : x < Real.exp 1 ^ (n + 1)) :
    ⌊Real.log x⌋ = n := by
  have hx : 0 < x := (pow_pos (Real.exp_pos 1) n).trans_le hlo
  rw [Int.floor_eq_iff, Real.le_log_iff_exp_le hx, Real.log_lt_iff_lt_exp hx]
  constructor
  · simpa [← Real.exp_one_pow] using hlo
  · exact_mod_cast (Real.exp_one_pow (n + 1)) ▸ hhi

section
variable {a b n v : Nat}

theorem exp_one_pow_le {x : ℝ} (h : (2.7183 : ℝ) ^ v ≤ x) : Real.exp 1 ^ v ≤ x :=
  (pow_le_pow_left₀ (Real.exp_pos 1).le (Real.exp_one_lt_d9.le.trans (by norm_num)) v).trans h

theorem lt_exp_one_pow {x : ℝ} (h : x < (2.718 : ℝ) ^ v) : x < Real.exp 1 ^ v :=
  h.trans_le (pow_le_pow_left₀ (by norm_num) (Real.exp_one_gt_d9.le.trans' (by norm_num)) v)

/-- The closed form is constant on a run of keys whose ends lie between the same two powers of `e`. -/
theorem floor_log_run (ha : a ≤ n) (hb : n ≤ b) (hlo : (2.7183 : ℝ) ^ v ≤ (a : ℝ) ^ 2 / 200)
    (hhi : (b : ℝ) ^ 2 / 200 < (2.718 : ℝ) ^ (v + 1)) : ⌊Real.log ((n : ℝ) ^ 2 / 200)⌋ = v := by
  have hmin : (a : ℝ) ^ 2 / 200 ≤ (n : ℝ) ^ 2 / 200 := by gcongr
  have hmax : (n : ℝ) ^ 2 / 200 ≤ (b : ℝ) ^ 2 / 200 := by gcongr
  exact floor_log_eq ((exp_one_pow_le hlo).trans hmin) (hmax.trans_lt (lt_exp_one_pow hhi))

/-- On the first run the closed form is clamped at 0, or between 1 and `e`. -/
theorem floor_log_firstRun (hn : n ≤ 23) (hclamp : ¬ (n : ℝ) ^ 2 / 200 ≤ 1) :
    ⌊Real.log ((n : ℝ) ^ 2 / 200)⌋ = (0 : Nat) := by
  have hmax : (n : ℝ) ^ 2 / 200 ≤ (23 : Nat) ^ 2 / 200 := by gcongr
  refine floor_log_eq (by simpa using (not_le.1 hclamp).le) (hmax.trans_lt (lt_exp_one_pow ?_))
  norm_num

theorem one_lt_of_le (hn : 24 ≤ n) : ¬ (n : ℝ) ^ 2 / 200 ≤ 1 := by
  have hmin : ((24 : Nat) : ℝ) ^ 2 / 200 ≤ (n : ℝ) ^ 2 / 200 := by gcongr
  refine not_le.2 (lt_of_lt_of_le ?_ hmin)
  norm_num

end

/-- Settles O8: `c * c / 200` lies between the powers of `e` that belong to the run of `c`. -/
theorem defaultTableIsTheClosedForm : Obligations.DefaultTableIsTheClosedForm := by
  intro code
  have hbyte : code.toNat ≤ 255 := Nat.le_of_lt_succ code.isLt
  rw [tableEntry_default]
  generalize code.toNat = n at *
  rcases Nat.lt_or_ge n 24 with h | h24
  · rw [if_pos h]
    split_ifs with hclamp
    · rfl
    · exact (floor_log_firstRun (Nat.le_of_lt_succ h) hclamp).symm
  rw [if_neg (one_lt_of_le h24), if_neg (not_lt.2 h24)]
  symm
  split_ifs with h39 h64 h105 h173
  · exact floor_log_run (a := 24) (b := 38) h24 (by omega) (by norm_num) (by norm_num)
  · exact floor_log_run (a := 39) (b := 63) (by omega) (by omega) (by norm_num) (by norm_num)
  · exact floor_log_run (a := 64) (b := 104) (by omega) (by omega) (by norm_num) (by norm_num)
  · exact floor_log_run (a := 105) (b := 172) (by omega) (by omega) (by norm_num) (by norm_num)
  · exact floor_log_run (a := 173) (b := 255) (by omega) (by omega) (by norm_num) (by norm_num)

/-! ### The channel bank (R120, R121) -/

/-- BANK.RD completes where the register exists. -/
theorem execBankRd_eq {s : State} {sel : BankSel} {n : Nat} {v : BankValue} (h : bankRead s sel n = some v) :
    execBankRd sel n s = .next { s with result := some (.register v) } := by
  simp only [execBankRd, h]

theorem execBankRd_next {s t : State} {sel : BankSel} {n : Nat} (h : execBankRd sel n s = .next t) :
    t = { s with result := t.result } := by
  unfold execBankRd at h
  split at h <;> cases h
  rfl

/-- There is no register outside the array. -/
theorem bankRead_eq_none {s : State} {sel : BankSel} {n : Nat} (hs : ArraysSized s) (hn : sel.size s.config ≤ n) :
    bankRead s sel n = none := by
  obtain ⟨hp, hd, hc, hb, -, -⟩ := hs
  cases sel with
  | position => exact congrArg (Option.map _) (List.getElem?_eq_none (hp.trans_le hn))
  | direction => exact congrArg (Option.map _) (List.getElem?_eq_none (hd.trans_le hn))
  | speedCode => exact congrArg (Option.map _) (List.getElem?_eq_none (hc.trans_le hn))
  | brightness => exact congrArg (Option.map _) (List.getElem?_eq_none (hb.trans_le hn))

theorem map_getElem?_set_self {α β : Type} {f : α → β} {l : List α} {n : Nat} {w : β} (v : α)
    (h : l[n]?.map f = some w) : (l.set n v)[n]?.map f = some (f v) := by
  obtain ⟨a, ha, -⟩ := Option.map_eq_some_iff.1 h
  rw [List.getElem?_set_self (List.getElem?_eq_some_iff.1 ha).1, Option.map_some]

/-- A register reads back the value stored in it. -/
theorem bankRead_bankStore {s : State} {n : Nat} {v w : BankValue} (h : bankRead s v.sel n = some w) :
    bankRead (bankStore s n v) v.sel n = some v := by
  cases v <;> exact map_getElem?_set_self _ h

/-- Settles O18, by the array. -/
theorem bankReadReturnsTheRegister : Obligations.BankReadReturnsTheRegister := by
  refine ⟨fun s n v h => execBankRd_eq ?_, fun s n v h => execBankRd_eq ?_, fun s n v h => execBankRd_eq ?_,
    fun s n v h => execBankRd_eq ?_, fun s sel n hs hn => ?outside⟩
  case outside => simp only [exec, execBankRd, bankRead_eq_none hs hn]
  all_goals exact congrArg (Option.map _) h

/-- Settles O19, by the array of the value. -/
theorem bankWriteChangesOneRegister : Obligations.BankWriteChangesOneRegister := by
  have hmap {α : Type} (f : α → BankValue) {l : List α} {n : Nat} (hn : n < l.length) :
      (l[n]?).map f = some (f l[n]) := by rw [List.getElem?_eq_getElem hn, Option.map_some]
  refine ⟨fun s n v hn => bankWrite_eq (hmap _ hn), fun s n v hn => bankWrite_eq (hmap _ hn),
    fun s n v hn => bankWrite_eq (hmap _ hn), fun s n v hn => bankWrite_eq (hmap _ hn), fun s n v hs hn => ?outside,
    fun s t n v h => ?readBack⟩
  case outside => simp only [exec, execBankWr, bankWrite, bankRead_eq_none hs hn]
  case readBack =>
    obtain ⟨⟨w, hw⟩, rfl⟩ := bankWrite_next h
    exact execBankRd_eq (bankRead_bankStore hw)

/-! ### The frame decoder (R140 to R142) -/

/-- Settles O20: DECODE is `splitFrame`, which depends on the frame and the configuration only. -/
theorem decodeSplitsTheFrame : Obligations.DecodeSplitsTheFrame := by
  refine ⟨fun s raw hl => ?whole, fun s raw hl => if_neg hl⟩
  have hbright : (raw.take s.config.L).length = s.config.L := by simp [hl, Config.frameLen]
  have hspeed : (raw.drop s.config.L).length = s.config.S := by simp [hl, Config.frameLen]
  exact ⟨splitFrame raw s, execDecodeFrame_eq hl, rfl, hbright, hspeed, fun j hj => List.getElem?_take_of_lt hj,
    fun i hi => List.getElem?_drop, execDecodeFrame_eq hl⟩

theorem frameDest_eq_led {c : Config} {k j : Nat} (h : frameDest c k = some (.led j)) : k < c.L ∧ j = k := by
  unfold frameDest at h
  split_ifs at h with hk <;> cases h
  exact ⟨hk, rfl⟩

theorem frameDest_eq_servo {c : Config} {k i : Nat} (h : frameDest c k = some (.servo i)) :
    c.L ≤ k ∧ k < c.frameLen ∧ i = k - c.L := by
  unfold frameDest at h
  split_ifs at h with hL hk <;> cases h
  exact ⟨not_lt.1 hL, hk, rfl⟩

theorem execFrameLed_next {k : Nat} {b : Byte} {s t : State} (h : execFrameLed k b s = .next t) :
    k < s.config.L ∧ t = writeBrightness s k b := by
  unfold execFrameLed at h
  split at h
  next j hdest =>
    obtain ⟨hk, rfl⟩ := frameDest_eq_led hdest
    exact ⟨hk, (bankWrite_next h).2⟩
  next => cases h
  next => cases h

theorem execFrameSpd_next {k : Nat} {b : Byte} {s t : State} (h : execFrameSpd k b s = .next t) :
    (s.config.L ≤ k ∧ k < s.config.frameLen) ∧ t = writeSpeedCode s (k - s.config.L) b := by
  unfold execFrameSpd at h
  split at h
  next i hdest =>
    obtain ⟨hL, hk, rfl⟩ := frameDest_eq_servo hdest
    exact ⟨⟨hL, hk⟩, (bankWrite_next h).2⟩
  next => cases h
  next => cases h

/-- FRAME.LED has no register outside the brightness segment. -/
theorem execFrameLed_refused {k : Nat} {s : State} (b : Byte) (hk : s.config.L ≤ k) :
    execFrameLed k b s = .refused .indexOutOfRange := by
  unfold execFrameLed
  split
  next j hdest => exact absurd (frameDest_eq_led hdest).1 (not_lt.2 hk)
  next => rfl
  next => rfl

/-- FRAME.SPD has no register outside the speed-code segment. -/
theorem execFrameSpd_refused {k : Nat} {s : State} (b : Byte) (hk : k < s.config.L ∨ s.config.frameLen ≤ k) :
    execFrameSpd k b s = .refused .indexOutOfRange := by
  unfold execFrameSpd
  split
  next i hdest =>
    obtain ⟨hL, hN, -⟩ := frameDest_eq_servo hdest
    omega
  next => rfl
  next => rfl

/-- Settles O21: each operation completes on its own segment and is refused elsewhere. -/
theorem frameByteGoesToItsChannel : Obligations.FrameByteGoesToItsChannel := by
  rintro s k b ⟨-, -, hc, hb, -, -⟩
  refine ⟨fun hk => execFrameLed_eq b hk (hb ▸ hk), fun hL hk => ?spd, execFrameLed_refused b, execFrameSpd_refused b⟩
  case spd => exact execFrameSpd_eq b hL hk (hc ▸ Nat.sub_lt_left_of_lt_add hL hk)

/-- A bank write leaves everything but the four arrays. -/
theorem bankStore_rest (s : State) (n : Nat) (v : BankValue) : bankStore s n v =
    { s with position := (bankStore s n v).position, direction := (bankStore s n v).direction,
             speedCode := (bankStore s n v).speedCode, brightness := (bankStore s n v).brightness } := by
  cases v <;> rfl

/-- Settles O37, by the operation: what its inversion lemma says it writes. -/
theorem decoderAndPortOperationsFrame : Obligations.DecoderAndPortOperationsFrame := by
  refine ⟨fun s t i hi h => ?all, fun s t i hi h => ?ports, fun s t k b h => ?led, fun s t k b h => ?spd⟩
  case all =>
    rcases hi with ⟨k, b, rfl⟩ | ⟨k, b, rfl⟩ | ⟨raw, rfl⟩ | ⟨c, rfl⟩ | ⟨sel, n, rfl⟩ | ⟨n, v, rfl⟩
    next => obtain ⟨-, rfl⟩ := execFrameLed_next h; simp
    next => obtain ⟨-, rfl⟩ := execFrameSpd_next h; simp
    next => obtain ⟨-, rfl⟩ := execDecodeFrame_next h; simp
    next => cases h; simp
    next => rw [execBankRd_next h]; simp
    next => obtain ⟨-, rfl⟩ := bankWrite_next h; rw [bankStore_rest]; simp
  case ports =>
    rcases hi with ⟨c, rfl⟩ | ⟨sel, n, rfl⟩
    · cases h; simp
    · rw [execBankRd_next h]; simp
  case led =>
    obtain ⟨-, rfl⟩ := execFrameLed_next h
    exact ⟨rfl, fun n hn => List.getElem?_set_ne hn.symm⟩
  case spd =>
    obtain ⟨-, rfl⟩ := execFrameSpd_next h
    exact ⟨rfl, fun n hn => List.getElem?_set_ne hn.symm⟩

/-- Settles O52: the frames of the three groups of operations; RESET keeps both fields by definition. -/
theorem noOperationWritesTheConfiguration : Obligations.NoOperationWritesTheConfiguration := by
  intro i s t h
  cases i with
  | reset => cases h; exact ⟨rfl, rfl⟩
  | tick | servoStep n | ledEmit n =>
    obtain ⟨hcfg, -, -, -, -, -, -, -, hsched⟩ := stepperOperationsFrame.1 s t _ (by simp) h
    exact ⟨hcfg, hsched⟩
  | idle | rxpush b | fire | consume | update | echo | resync | delim | skip b =>
    obtain ⟨hcfg, -, -, -, -, -, -, hsched, -⟩ := linkOperationsFrame s t _ (by simp) h
    exact ⟨hcfg, hsched⟩
  | frameLed k b | frameSpd k b | decodeFrame raw | lookup c | bankRd sel n | bankWr n v =>
    obtain ⟨hcfg, -, -, -, -, -, -, -, hsched, -⟩ := decoderAndPortOperationsFrame.1 s t _ (by simp) h
    exact ⟨hcfg, hsched⟩

end Sys2Proof.Machine

/-! The step of the whole machine (R10, R26, R64, R65): which operation it runs, when that completes, which component each
step writes, and how a TICK that is due outlasts the transient phases. -/

namespace Sys2Proof.Machine

/-! ### Fetching a turn -/

theorem isTickWord_iff (w : EventWord) : isTickWord w = true ↔ eventKind w = 0b10#2 := beq_iff_eq

/-- An event that the phase does not hold is the next step (R81). -/
theorem step_event {s : State} {w : EventWord} {rest : List Slot} (h : s.schedule = .event w :: rest)
    (run : isTickWord w = false ∨ tickEnabled s = true) : step s = exec (decodeEvent w) { s with schedule := rest } := by
  have hdecode : decode s.config (fetch s).1 = .ok (decodeEvent w) := by rw [fetch_event h run]; rfl
  rw [step_of_decode hdecode, fetch_event h run]

/-- Settles O42: `fetch` by the head of the schedule. -/
theorem stepRunsTheFetchedOperation : Obligations.StepRunsTheFetchedOperation := by
  refine ⟨fun s i h => step_of_decode h, fun s w rest h hrun => fetch_event h ?run, fun s w rest h hkind hheld => ?held,
    fun s rest h => fetch_protocol h, fun s h => fetch_nil h⟩
  case run =>
    by_cases hkind : eventKind w = 0b10#2
    · exact .inr (by simpa [hkind] using hrun)
    · exact .inl (by simpa [isTickWord] using hkind)
  case held => exact fetch_held h ((isTickWord_iff w).2 hkind) hheld

/-- The event word of a TICK is fetched only where the phase enables TICK (R65). -/
theorem tickEnabled_of_fetch {s : State} {w : EventWord} (h : (fetch s).1 = .ev w) (hw : isTickWord w = true) :
    tickEnabled s = true := by
  unfold fetch at h
  split at h
  · cases h
  · cases h
  · split at h
    · cases h
    · next w' _ _ hrun =>
      cases h
      simpa [hw] using hrun

/-- The step never runs a TICK that the phase holds. -/
theorem tickEnabled_of_nextOp {s : State} (h : nextOp s = some .tick) : tickEnabled s = true := by
  have hdecode := nextOp_eq.1 h
  rcases fetch_fst s with ⟨w, hw⟩ | hw
  · refine tickEnabled_of_fetch hw ((isTickWord_iff w).2 ?_)
    rw [hw] at hdecode
    have hevent : decodeEvent w = .tick := Except.ok.inj hdecode
    rcases decodeEvent_cases w with ⟨-, h⟩ | ⟨-, h⟩ | ⟨hkind, -⟩ | ⟨-, h⟩
    case inr.inr.inl => exact hkind
    all_goals rw [hevent] at h; cases h
  · rw [hw] at hdecode
    have hphase : s.phase.microStep = .tick := Except.ok.inj ((decodePhase_code _).symm.trans hdecode)
    cases hp : s.phase <;> rw [hp] at hphase <;> cases hphase

/-! ### Enabled steps complete -/

/-- The turns to come enable nothing. -/
theorem enabled_fetch (s : State) (i : Instr) : enabled (fetch s).2 i = enabled s i := by
  rw [fetch_snd]
  cases i <;> rfl

/-- In a state that meets the invariant every enabled step completes (R64). -/
theorem exec_of_enabled {s : State} {i : Instr} (hinv : Inv s) (h : enabled s i = true) : ∃ t, exec i s = .next t := by
  cases i with
  | idle | reset => exact ⟨_, rfl⟩
  | rxpush b => exact ⟨_, execRxpush_eq b h⟩
  | tick => exact ⟨_, execTick_eq hinv.sized h⟩
  | fire =>
    obtain ⟨hp, hl⟩ := fire_enabled h
    exact ⟨_, execFire_eq hp hl⟩
  | consume =>
    have hp : s.phase = .consumeFrame := of_decide_eq_true h
    exact ⟨_, execConsume_eq hp (hinv.rx.1 hp)⟩
  | update =>
    have hp : s.phase = .updateState := of_decide_eq_true h
    obtain ⟨f, hf, hl⟩ := hinv.frame_whole (.inl hp)
    exact ⟨_, execUpdate_eq hp hf hl⟩
  | echo =>
    have hp : s.phase = .echo := of_decide_eq_true h
    obtain ⟨f, hf, hl⟩ := hinv.frame_whole (.inr hp)
    exact ⟨_, execEcho_eq hp hf hl⟩
  | resync =>
    obtain ⟨hp, b, rest, hrx⟩ := resync_enabled h
    exact ⟨_, execResync_eq hp hrx⟩
  | _ => cases h

/-- The micro-step of the phase is enabled, or it is FIRE or RESYNC, which then waits (R171, R175). -/
theorem microStep_enabled_or_waits (s : State) : enabled s s.phase.microStep = true ∨
    ((s.phase.microStep = .fire ∨ s.phase.microStep = .resync) ∧ exec s.phase.microStep s = .next s) := by
  cases hp : s.phase with
  | waitFrame =>
    rcases Nat.lt_or_ge s.rx.length s.config.frameLen with hl | hl
    · exact .inr ⟨.inl rfl, execFire_wait hp hl⟩
    · exact .inl (by simp [Phase.microStep, enabled, linkPending, hp, hl])
  | consumeFrame | updateState | echo => exact .inl (decide_eq_true hp)
  | resync =>
    cases hrx : s.rx with
    | nil => exact .inr ⟨.inr rfl, execResync_wait hp hrx⟩
    | cons b rest => exact .inl (by simp [Phase.microStep, enabled, hp, hrx])

/-- Settles O44, by the operation that the step runs. -/
theorem stepRunsAnEnabledStepOrWaits : Obligations.StepRunsAnEnabledStepOrWaits := by
  intro s
  obtain ⟨i, hi, hop, hstep⟩ := step_cases s
  refine ⟨i, hi, ?_⟩
  rcases hop with rfl | ⟨b, rfl⟩ | rfl | rfl | rfl
  next => exact .inl rfl
  next =>
    cases hroom : enabled s (.rxpush b) with
    | true => exact .inl rfl
    | false => exact .inr (.inr ⟨b, rfl, hstep.trans (execRxpush_full b ((enabled_fetch s (.rxpush b)).trans hroom))⟩)
  next => exact .inl (tickEnabled_of_nextOp hi)
  next => exact .inl rfl
  next =>
    have hphase : (fetch s).2.phase = s.phase := by rw [fetch_snd]
    have h := microStep_enabled_or_waits (fetch s).2
    rw [enabled_fetch, hphase] at h
    rcases h with h | ⟨hwaits, h⟩
    · exact .inl h
    · exact .inr (.inl ⟨hwaits, hstep.trans h, fetch_snd s⟩)

/-- Settles O48: what a step runs is enabled, and completes by the invariant, or it is one of O44's two exceptions. -/
theorem stepsCompleteButForAnOverrun : Obligations.StepsCompleteButForAnOverrun := by
  intro s hinv
  obtain ⟨i, hi, h⟩ := stepRunsAnEnabledStepOrWaits s
  have hstep := step_of_decode (nextOp_eq.1 hi)
  have hcompletes : enabled s i = true → ∃ t, step s = .next t := fun hen =>
    hstep ▸ exec_of_enabled hinv.fetch ((enabled_fetch s i).trans hen)
  rcases h with hen | ⟨-, hwait, -⟩ | ⟨b, rfl, hfull⟩
  · exact .inl (hcompletes hen)
  · exact .inl ⟨_, hwait⟩
  · refine .inr ⟨b, hi, Bool.eq_false_iff.2 fun hen => ?_, hfull⟩
    obtain ⟨t, ht⟩ := hcompletes hen
    cases hfull.symm.trans ht

/-- A turn of the protocol put first in the schedule. -/
theorem step_putProtocol {s : State} {p : Phase} (rest : List Slot) (hp : s.phase = p) :
    step { s with schedule := .protocol :: rest } = exec p.microStep { s with schedule := rest } :=
  step_protocol (s := { s with schedule := .protocol :: rest }) rfl hp

/-- An event put first in the schedule. -/
theorem step_putEvent {s : State} {w : EventWord} {i : Instr} (rest : List Slot) (hw : decodeEvent w = i)
    (run : isTickWord w = false ∨ tickEnabled s = true) :
    step { s with schedule := .event w :: rest } = exec i { s with schedule := rest } :=
  hw ▸ step_event (s := { s with schedule := .event w :: rest }) rfl run

/-- Settles O43: an event's turn presents its word, a turn of the protocol the micro-step of the phase. -/
theorem everyEnabledStepCanBeNext : Obligations.EveryEnabledStepCanBeNext := by
  intro s i rest hen
  cases i with
  | idle => exact ⟨.event (eventWord 0b00#2 0), step_putEvent rest rfl (.inl rfl)⟩
  | rxpush b =>
    have hdecode : decodeEvent (eventWord 0b01#2 b) = .rxpush b := by simp [decodeEvent]
    exact ⟨.event (eventWord 0b01#2 b), step_putEvent rest hdecode (.inl (by simp [isTickWord]))⟩
  | tick => exact ⟨.event (eventWord 0b10#2 0), step_putEvent rest rfl (.inr hen)⟩
  | reset => exact ⟨.event (eventWord 0b11#2 0), step_putEvent rest rfl (.inl rfl)⟩
  | fire => exact ⟨.protocol, step_putProtocol rest (fire_enabled hen).1⟩
  | consume | update | echo => exact ⟨.protocol, step_putProtocol rest (of_decide_eq_true hen)⟩
  | resync => exact ⟨.protocol, step_putProtocol rest (resync_enabled hen).1⟩
  | _ => cases hen

/-! ### Which step writes what -/

/-- A completed step is an operation that completed in the state with its turn taken. -/
theorem step_next {s t : State} (h : step s = .next t) :
    ∃ i sched, nextOp s = some i ∧ StepOp s i ∧ exec i { s with schedule := sched } = .next t := by
  obtain ⟨i, hi, hop, hstep⟩ := step_cases s
  rw [hstep, fetch_snd] at h
  exact ⟨i, _, hi, hop, h⟩

/-- What a step runs is TICK, RESET or an operation of the link. -/
theorem StepOp.link {s : State} {i : Instr} (h : StepOp s i) (htick : i ≠ .tick) (hreset : i ≠ .reset) :
    i = .idle ∨ (∃ b, i = .rxpush b) ∨ i = .fire ∨ i = .consume ∨ i = .update ∨ i = .echo ∨ i = .resync := by
  rcases h with rfl | ⟨b, rfl⟩ | rfl | rfl | rfl
  next => simp
  next => simp
  next => exact absurd rfl htick
  next => exact absurd rfl hreset
  next => cases s.phase <;> simp [Phase.microStep]

/-- The link's operations that a step runs are among those of LinkOperationsFrame. -/
theorem StepOp.linkOp {s : State} {i : Instr} (h : StepOp s i) (htick : i ≠ .tick) (hreset : i ≠ .reset) :
    i = .idle ∨ (∃ b, i = .rxpush b) ∨ i = .fire ∨ i = .consume ∨ i = .update ∨ i = .echo ∨ i = .resync ∨
      i = .delim ∨ (∃ b, i = .skip b) := by
  rcases h.link htick hreset with rfl | ⟨b, rfl⟩ | rfl | rfl | rfl | rfl | rfl <;> simp

/-- Settles O49: TICK's frame, and the frame of the link's operations. -/
theorem eachComponentHasItsWriters : Obligations.EachComponentHasItsWriters := by
  intro s t h
  obtain ⟨i, sched, hi, hop, h⟩ := step_next h
  simp only [hi, Option.some.injEq]
  by_cases htick : i = .tick
  · obtain ⟨-, hspeed, hbright, -, hframe, hrx, htx, -⟩ := stepperOperationsFrame.1 _ t i (.inl htick) h
    simp [htick, hspeed, hbright, hframe, hrx, htx]
  by_cases hreset : i = .reset
  · simp [hreset]
  obtain ⟨-, hpos, hdir, hout, hservo, hled, -, -, hregs, htx, hframe, hrx, -⟩ :=
    linkOperationsFrame _ t i (hop.linkOp htick hreset) h
  refine ⟨?servos, ?registers, ?tx, ?frame, ?rx⟩
  case servos => simp [hpos, hdir, hout, hservo, hled]
  case registers =>
    refine fun hne => .inl (by_contra fun hupdate => ?_)
    simp [hregs hupdate] at hne
  case tx => exact fun hne => .inl (by_contra fun hecho => hne (htx hecho))
  case frame =>
    intro hne
    by_contra hno
    exact hne (hframe (fun h => hno (.inl h)) (fun h => hno (.inr (.inl h))))
  case rx =>
    rcases hop.link htick hreset with rfl | ⟨b, rfl⟩ | rfl | rfl | rfl | rfl | rfl <;> simp [hrx]

/-- A TICK only lengthens the history of output writes. -/
theorem execTick_out_prefix {s t : State} (h : execTick s = .next t) : s.out <+: t.out := by
  rw [execTick, if_pos (execTick_next h).1] at h
  obtain ⟨u, hu, ht⟩ := andThen_eq_next.1 h
  have hservos : s.out <+: u.out := by
    refine forEach_keeps (P := fun u => s.out <+: u.out) (fun n _ a b ha hb => ?_) (List.prefix_refl _) hu
    obtain ⟨pos, dir, code, hp, hd, hc⟩ := servoStep_next hb
    cases (servoStep_eq hp hd hc).symm.trans hb
    exact ha.trans (List.prefix_append _ _)
  refine forEach_keeps (P := fun u => s.out <+: u.out) (fun n _ a b ha hb => ?_) hservos ht
  obtain ⟨v, hv⟩ := ledEmit_next hb
  cases (ledEmit_eq hv).symm.trans hb
  exact ha.trans (List.prefix_append _ _)

/-- Settles O50: TICK appends to `out`, ECHO the frame to `tx`, and no other operation but RESET writes either. -/
theorem historiesOnlyGrow : Obligations.HistoriesOnlyGrow := by
  intro s t h hreset
  obtain ⟨i, sched, hi, hop, h⟩ := step_next h
  rw [hi, Ne, Option.some.injEq] at hreset
  by_cases htick : i = .tick
  · obtain ⟨-, -, -, -, -, -, htx, -⟩ := stepperOperationsFrame.1 _ t i (.inl htick) h
    subst htick
    exact ⟨execTick_out_prefix (s := { s with schedule := sched }) h, .inl htx⟩
  obtain ⟨-, -, -, hout, -, -, -, -, -, htx, -⟩ := linkOperationsFrame _ t i (hop.linkOp htick hreset) h
  refine ⟨hout ▸ List.prefix_refl _, ?_⟩
  by_cases hecho : i = .echo
  · subst hecho
    obtain ⟨-, f, hf, -, rfl⟩ := execEcho_next h
    exact .inr ⟨f, hf, rfl⟩
  · exact .inl (htx hecho)

/-- Where the micro-step of a phase leads (R26). -/
theorem exec_microStep_phase {s t : State} (h : exec s.phase.microStep s = .next t) :
    t.phase = s.phase ∨ (s.phase = .waitFrame ∧ t.phase = .consumeFrame) ∨
    (s.phase = .consumeFrame ∧ t.phase = .updateState) ∨ (s.phase = .updateState ∧ t.phase = .echo) ∨
    (s.phase = .echo ∧ t.phase = .resync) ∨ (s.phase = .resync ∧ t.phase = .waitFrame) := by
  cases hp : s.phase <;> rw [hp] at h
  case waitFrame => obtain ⟨-, ⟨-, rfl⟩ | ⟨-, rfl⟩⟩ := execFire_next h <;> simp [hp]
  case consumeFrame => obtain ⟨-, -, rfl⟩ := execConsume_next h; simp
  case updateState => obtain ⟨-, f, -, -, rfl⟩ := execUpdate_next h; simp
  case echo => obtain ⟨-, f, -, -, rfl⟩ := execEcho_next h; simp
  case resync =>
    obtain ⟨-, ⟨-, rfl⟩ | ⟨b, rest, -, rfl⟩⟩ := execResync_next h
    · exact .inl hp
    · by_cases hb : b = s.config.delim <;> simp [hb]

/-- Settles O51: of the operations a step can run only RESET and the micro-step write the phase. -/
theorem phaseFollowsTheCycle : Obligations.PhaseFollowsTheCycle := by
  intro s t h
  obtain ⟨i, sched, hi, hop, h⟩ := step_next h
  rcases hop with rfl | ⟨b, rfl⟩ | rfl | rfl | rfl
  next => cases h; exact .inr (.inl rfl)
  next => obtain ⟨-, rfl⟩ := execRxpush_next h; exact .inr (.inl rfl)
  next =>
    obtain ⟨-, -, -, hphase, -⟩ := stepperOperationsFrame.1 _ t _ (.inl rfl) h
    exact .inr (.inl hphase)
  next => exact .inl hi
  next => exact .inr (exec_microStep_phase (s := { s with schedule := sched }) h)

/-- Settles O53: of the link's operations only UPDATE writes the registers, to the two parts of the frame. -/
theorem hostReachesChannelsOnlyThroughFrames : Obligations.HostReachesChannelsOnlyThroughFrames := by
  intro s t h htick hreset
  obtain ⟨i, sched, hi, hop, h⟩ := step_next h
  rw [hi, Ne, Option.some.injEq] at htick hreset
  obtain ⟨-, hpos, hdir, -, -, -, -, -, hregs, -⟩ := linkOperationsFrame _ t i (hop.linkOp htick hreset) h
  refine ⟨hpos, hdir, ?_⟩
  by_cases hupdate : i = .update
  · subst hupdate
    obtain ⟨-, f, hf, -, rfl⟩ := execUpdate_next h
    exact .inr ⟨f, hf, List.take_append_drop _ _⟩
  · exact .inl (hregs hupdate).symm

/-- Settles O28: RESYNC by its oldest byte; of the operations a step can run only RESET and RESYNC leave the phase. -/
theorem resyncDiscardsUpToTheDelimiter : Obligations.ResyncDiscardsUpToTheDelimiter := by
  refine ⟨fun s b rest hp hrx => ⟨fun hb => ?delim, fun hb => execResync_discard hp hrx hb⟩,
    fun s hp hrx => ⟨execResync_wait hp hrx, by simp [enabled, hrx]⟩, fun s t hp h hne => ?leave⟩
  case delim => subst hb; exact execResync_delim hp hrx
  case leave =>
    obtain ⟨i, sched, hi, hop, h⟩ := step_next h
    rcases hop with rfl | ⟨b, rfl⟩ | rfl | rfl | rfl
    next => cases h; exact absurd hp hne
    next => obtain ⟨-, rfl⟩ := execRxpush_next h; exact absurd hp hne
    next =>
      obtain ⟨-, -, -, hphase, -⟩ := stepperOperationsFrame.1 _ t _ (.inl rfl) h
      exact absurd (hphase.trans hp) hne
    next => exact .inl hi
    next =>
      have hresync : s.phase.microStep = .resync := congrArg Phase.microStep hp
      rw [hresync] at hi h
      obtain ⟨-, ⟨-, rfl⟩ | ⟨b, rest, hrx, rfl⟩⟩ := execResync_next h
      · exact absurd hp hne
      · by_cases hb : b = s.config.delim
        · exact .inr ⟨hi, hb ▸ congrArg List.head? hrx, if_pos hb⟩
        · exact absurd (if_neg hb) hne

/-! ### A TICK that is due outlasts the transient phases (R65) -/

/-- A TICK is first in the schedule, in a state of a run whose RESYNC enables it. -/
structure TickDue (s : State) : Prop where
  inv : Inv s
  tickInResync : s.config.tickInResync = true
  due : ∃ w rest, s.schedule = .event w :: rest ∧ eventKind w = 0b10#2

/-- The schedule and the servos are as they were. -/
def SameServos (s t : State) : Prop :=
  t.schedule = s.schedule ∧ t.position = s.position ∧ t.direction = s.direction ∧ t.out = s.out

/-- A TICK comes to run within `n` steps, with the schedule and the servos as they were. -/
def TickWithin (n : Nat) (s : State) : Prop :=
  ∃ m t, 1 ≤ m ∧ m ≤ n ∧ steps m s = .next t ∧ SameServos s t ∧ nextOp t = some .tick

theorem TickWithin.step {n : Nat} {s t : State} (h : step s = .next t) (hsame : SameServos s t) (ht : TickWithin n t) :
    TickWithin (n + 1) s := by
  obtain ⟨m, u, h1, hn, hu, ⟨hs, hp, hd, ho⟩, hop⟩ := ht
  obtain ⟨hs', hp', hd', ho'⟩ := hsame
  exact ⟨m + 1, u, Nat.le_add_left .., Nat.succ_le_succ hn, by rw [steps_succ, h, andThen_next, hu],
    ⟨hs.trans hs', hp.trans hp', hd.trans hd', ho.trans ho'⟩, hop⟩

section
variable {s : State}

/-- In a transient phase the micro-step goes first, and the TICK stays due. -/
theorem TickDue.microStep {p : Phase} (h : TickDue s) (hp : s.phase = p)
    (hheld : p = .consumeFrame ∨ p = .updateState ∨ p = .echo) :
    ∃ t, exec p.microStep s = .next t ∧ step s = .next t ∧ SameServos s t ∧ TickDue t := by
  obtain ⟨w, rest, hsched, hkind⟩ := h.due
  have hdisabled : tickEnabled s = false := by rcases hheld with rfl | rfl | rfl <;> simp [tickEnabled, hp]
  have hstep : step s = exec p.microStep s :=
    hp ▸ step_of_fetch_phase (fetch_held hsched ((isTickWord_iff w).2 hkind) hdisabled)
  have hen : enabled s p.microStep = true := by
    rcases hheld with rfl | rfl | rfl <;> exact decide_eq_true hp
  obtain ⟨t, ht⟩ := exec_of_enabled h.inv hen
  obtain ⟨hcfg, hpos, hdir, hout, -, -, -, hsched', -⟩ := linkOperationsFrame s t p.microStep
    (by rcases hheld with rfl | rfl | rfl <;> simp [Phase.microStep]) ht
  exact ⟨t, ht, hstep.trans ht, ⟨hsched', hpos, hdir, hout⟩, h.inv.microStep p ht, hcfg ▸ h.tickInResync,
    w, rest, hsched'.trans hsched, hkind⟩

/-- In RESYNC the TICK that is due is the next operation. -/
theorem TickDue.nextOp (h : TickDue s) (hp : s.phase = .resync) : nextOp s = some .tick := by
  obtain ⟨w, rest, hsched, hkind⟩ := h.due
  have hen : tickEnabled s = true := (tickEnabled_iff s).2 (.inr ⟨hp, h.tickInResync⟩)
  rw [nextOp_eq, fetch_event hsched (.inr hen)]
  simp [decode, decodeEvent, hkind]

theorem TickDue.within_of_echo (h : TickDue s) (hp : s.phase = .echo) : TickWithin 1 s := by
  obtain ⟨t, ht, hstep, hsame, hdue⟩ := h.microStep hp (by simp)
  have hresync : t.phase = .resync := by obtain ⟨-, f, -, -, rfl⟩ := execEcho_next ht; rfl
  exact ⟨1, t, le_rfl, le_rfl, by rw [steps_succ, hstep]; rfl, hsame, hdue.nextOp hresync⟩

theorem TickDue.within_of_updateState (h : TickDue s) (hp : s.phase = .updateState) : TickWithin 2 s := by
  obtain ⟨t, ht, hstep, hsame, hdue⟩ := h.microStep hp (by simp)
  have hecho : t.phase = .echo := by obtain ⟨-, f, -, -, rfl⟩ := execUpdate_next ht; rfl
  exact (hdue.within_of_echo hecho).step hstep hsame

theorem TickDue.within_of_consumeFrame (h : TickDue s) (hp : s.phase = .consumeFrame) : TickWithin 3 s := by
  obtain ⟨t, ht, hstep, hsame, hdue⟩ := h.microStep hp (by simp)
  have hupdate : t.phase = .updateState := by obtain ⟨-, -, rfl⟩ := execConsume_next ht; rfl
  exact (hdue.within_of_updateState hupdate).step hstep hsame

end

theorem TickWithin.mono {m n : Nat} {s : State} (h : TickWithin m s) (hmn : m ≤ n) : TickWithin n s := by
  obtain ⟨k, t, h1, hk, h⟩ := h
  exact ⟨k, t, h1, hk.trans hmn, h⟩

/-- Settles O45: from CONSUME_FRAME, UPDATE_STATE and ECHO there are three, two and one steps to RESYNC. -/
theorem tickDueInATransientPhaseIsNotLost : Obligations.TickDueInATransientPhaseIsNotLost := by
  intro s w rest hinv hcfg hsched hkind hp
  have hdue : TickDue s := ⟨hinv, hcfg, w, rest, hsched, hkind⟩
  have hwithin : TickWithin 3 s := by
    rcases hp with hp | hp | hp
    · exact hdue.within_of_consumeFrame hp
    · exact (hdue.within_of_updateState hp).mono (by decide)
    · exact (hdue.within_of_echo hp).mono (by decide)
  obtain ⟨n, t, h1, h3, ht, ⟨hs, hpos, hdir, hout⟩, hop⟩ := hwithin
  exact ⟨n, t, h1, h3, ht, hs, hop, hpos, hdir, hout⟩

end Sys2Proof.Machine
